-- ==== Sys2Proof/Word.lean ====
section
/-! DEFINITION. The two widths of the block (spec/00_scope.md R6: BYTE_WIDTH 8, WORD_WIDTH 16). -/

namespace Sys2Proof

/-- A byte: the unit of the bus and of the CRC accumulator (R6, R30). -/
abbrev Byte := BitVec 8

/-- A 16-bit word: a sensor opcode, a parameter word, a response word (R6, R12, R13, R15). -/
abbrev Word := BitVec 16

end Sys2Proof
end

