-- ==== Sys2Proof/Syntax.lean ====
section
/-! DEFINITION. The eleven block commands (spec/30_encoding.md R58). A command has no operand fields: its operands
are in the registers its rule names. -/

namespace Sys2Proof

/-- The block commands, one constructor per row of spec/opcode_table.json, in the table's order (R58). -/
inductive Instr where
  /-- `OPEN`, R111. -/
  | openSession
  /-- `CLOSE`, R112. -/
  | closeSession
  /-- `CRCINIT`, R78. -/
  | crcInit
  /-- `CRCBYTE`, R79. -/
  | crcByte
  /-- `CRC8W`, R80. -/
  | crc8w
  /-- `SEND0`, R89. -/
  | send0
  /-- `SEND1`, R90. -/
  | send1
  /-- `SEND2`, R91. -/
  | send2
  /-- `READ1`, R101. -/
  | read1
  /-- `READ2`, R102. -/
  | read2
  /-- `READ3`, R103. -/
  | read3
  deriving DecidableEq, Repr

/-- All eleven commands, in the table's order (R58). -/
def Instr.all : List Instr :=
  [.openSession, .closeSession, .crcInit, .crcByte, .crc8w, .send0, .send1, .send2, .read1, .read2, .read3]

end Sys2Proof
end

