-- ==== Sys2Proof/WellFormed.lean ====
section
/-! DEFINITION. Which commands are well formed. A command has no operand field (R58), so there is nothing to check:
every one of the eleven is well formed (log 16 [DESIGN CHOICE]). The checks the spec does make on what a host may write down are on
pseudo-instructions (R64): `Pseudo.wellFormed` in Machine/Assembler.lean. -/

namespace Sys2Proof

/-- Well-formedness of a command: there is no operand to check (R58). -/
def Instr.wellFormed : Instr → Bool
  | .openSession => true
  | .closeSession => true
  | .crcInit => true
  | .crcByte => true
  | .crc8w => true
  | .send0 => true
  | .send1 => true
  | .send2 => true
  | .read1 => true
  | .read2 => true
  | .read3 => true

end Sys2Proof
end

