-- ==== Sys2Proof/Decode.lean ====
section
/-! DEFINITION. Decoding the byte written to `CMD` (spec/30_encoding.md R58 to R60), and the encoder. -/

namespace Sys2Proof

/-- Why bytes are no command. -/
inductive DecodeError where
  /-- There is no byte to decode. -/
  | noByte
  /-- The byte is one of the 245 illegal codes (R60). -/
  | illegalCode (code : Byte)
  deriving DecidableEq, Repr

/-- One row of the command table: the byte `c` stands for `instr` when `c &&& mask = code` (R59). -/
structure OpRow where
  mask : Byte
  code : Byte
  instr : Instr
  deriving DecidableEq, Repr

/-- The command table (R58), every row with mask 0xFF (R59). -/
def opTable : List OpRow :=
  [ ⟨0xFF, 0x01, .openSession⟩,
    ⟨0xFF, 0x02, .closeSession⟩,
    ⟨0xFF, 0x10, .crcInit⟩,
    ⟨0xFF, 0x11, .crcByte⟩,
    ⟨0xFF, 0x12, .crc8w⟩,
    ⟨0xFF, 0x20, .send0⟩,
    ⟨0xFF, 0x21, .send1⟩,
    ⟨0xFF, 0x22, .send2⟩,
    ⟨0xFF, 0x31, .read1⟩,
    ⟨0xFF, 0x32, .read2⟩,
    ⟨0xFF, 0x33, .read3⟩ ]

/-- The byte `c` has the row's code under the row's mask (R59). -/
def OpRow.fits (row : OpRow) (c : Byte) : Bool := c &&& row.mask == row.code

/-- The command a byte selects; total, and a byte that fits no row is refused by name (R59, R60). -/
def decodeCode (c : Byte) : Except DecodeError Instr :=
  match opTable.find? (fun row => row.fits c) with
  | some row => .ok row.instr
  | none => .error (.illegalCode c)

/-- Decoding a byte list: the first byte is the whole command (R58), the rest is returned. -/
def decode : List Byte → Except DecodeError (Instr × List Byte)
  | [] => .error .noByte
  | c :: rest =>
    match decodeCode c with
    | .ok i => .ok (i, rest)
    | .error e => .error e

/-- The code of a command (R58). -/
def encodeCode : Instr → Byte
  | .openSession => 0b00000001
  | .closeSession => 0b00000010
  | .crcInit => 0b00010000
  | .crcByte => 0b00010001
  | .crc8w => 0b00010010
  | .send0 => 0b00100000
  | .send1 => 0b00100001
  | .send2 => 0b00100010
  | .read1 => 0b00110001
  | .read2 => 0b00110010
  | .read3 => 0b00110011

/-- The bytes of a command: one byte (R58). -/
def encode (i : Instr) : List Byte := [encodeCode i]

/-- The bytes of a number of `nbits` bits, least significant byte first, at least one byte: a command is one byte, so
there is no byte order to choose. -/
def tableBytes (nbits w : Nat) : List Byte :=
  (List.range (max 1 (nbits / 8))).map fun k => BitVec.ofNat 8 (w / 256 ^ k)

/-- The command the decoder reads from bits numbered as spec/opcode_table.json numbers them. -/
def decodeTableWord (nbits w : Nat) : Option Instr :=
  match decode (tableBytes nbits w) with
  | .ok (i, _) => some i
  | .error _ => none

end Sys2Proof
end

