-- ==== Sys2Proof/Machine/Params.lean ====
section
/-! DEFINITION. The parameters of the block that the spec fixes (spec/00_scope.md R6, R9). -/

namespace Sys2Proof.Machine

/-- `CRC_POLY` (R6). -/
def crcPoly : Byte := 0x31

/-- `CRC_INIT` (R6). -/
def crcStart : Byte := 0xFF

/-- `MAX_PARAMS` (R6). -/
def maxParams : Nat := 2

/-- `MAX_WORDS` (R6). -/
def maxWords : Nat := 3

/-- `GROUP_BYTES` (R6). -/
def groupBytes : Nat := 3

/-- `TXBUF_BYTES` (R6, R20). -/
def txBufBytes : Nat := 2 + groupBytes * maxParams

/-- `RXBUF_BYTES` (R6, R20). -/
def rxBufBytes : Nat := groupBytes * maxWords

end Sys2Proof.Machine
end

