-- ==== Sys2Proof/Config.lean ====
section
/-! DEFINITION. What the environment may answer, what a host read may return, and the free values: opaque constants
with no body, so that no proof can know a value of them (log 2 [DESIGN CHOICE], log 4 [DEDUCED], log 5 [DESIGN CHOICE], log 15 [DESIGN CHOICE]). The constants the spec fixes
(R6) are in Machine/Params.lean. -/

namespace Sys2Proof

/-- An answer of the bus environment to one bus call (spec/20_memory.md R31 to R36). -/
inductive BusAnswer where
  /-- The call succeeded; `buf` is what a `BusRead` returned, of any length (R33). -/
  | ok (buf : List Byte)
  /-- The call failed; `reached` is how many bytes of a `BusWrite` had reached the device (R32, log 4 [DEDUCED]). -/
  | fail (reached : Nat)
  /-- The call never returns (R36); `reached` is as for `fail` (R162, log 4 [DEDUCED]). -/
  | never (reached : Nat)
  deriving DecidableEq, Repr, Inhabited

/-- What a host read returns: a register of 8 bits gives a byte, one of 16 bits a word (R21, log 7 [DEDUCED]). -/
inductive PortValue where
  | byte (v : Byte)
  | word (v : Word)
  deriving DecidableEq, Repr, Inhabited

/-- Free value: the environment's answer number `n` where no answer is scripted (R35, U5, log 2 [DESIGN CHOICE]). -/
opaque Config.busDraw : Nat → BusAnswer

/-- Free value: what a host read of `CMD` returns as draw number `n` (R19, D28, log 5 [DESIGN CHOICE]). -/
opaque Config.byteDraw : Nat → Byte

/-- Free value: what a host read of a word register that holds no value returns as draw number `n` (R16, U3, log 5 [DESIGN CHOICE]). -/
opaque Config.wordDraw : Nat → Word

/-- Free value: what a host read of an absent register returns as draw number `n` (R21, D28, log 5 [DESIGN CHOICE]). -/
opaque Config.portDraw : Nat → PortValue

/-- Parameter of the host's software: whether the soft reset reports success after a successful general-call write
(R130, U6, log 15 [DESIGN CHOICE]). -/
opaque Config.softResetReportsSuccess : Bool

end Sys2Proof
end

