-- ==== Sys2Proof/Machine/State.lean ====
section
/-! DEFINITION. The state of the block (spec/10_state.md R10), the command in progress (R36), and the parameters of the
step relation that R25 names, which stand in the state as the model's own fields so that the step is a function. -/

namespace Sys2Proof.Machine

/-- The operation result `RES` (R15). The word list has at most three words: `Result.wf` in Safety.lean, kept by every
step (log 11 [DESIGN CHOICE]). -/
inductive Result where
  /-- `None`: no operation has completed since reset. -/
  | noResult
  /-- `Ok(ws)`, the words in wire order. -/
  | ok (ws : List Word)
  /-- `Fail(Transport)`. -/
  | failTransport
  /-- `Fail(Checksum, g)`, `g` the index of the failing group. -/
  | failChecksum (g : Fin 3)
  deriving DecidableEq, Repr

/-- The session state `SESS` (R17). -/
inductive Session where
  | closed
  | opened
  deriving DecidableEq, Repr

/-- The fault register `FAULT` (R18). -/
inductive FaultCode where
  | noFault
  | illegalCommand
  | notOpen
  | alreadyOpen
  deriving DecidableEq, Repr

/-- A call on the bus environment (R8, R31 to R33). -/
inductive BusCall where
  | openBus
  | closeBus
  | write (buf : List Byte)
  | read (count : Nat)
  deriving DecidableEq, Repr

/-- One entry of the event history: a call with what the environment answered (R5). -/
structure BusEvent where
  call : BusCall
  answer : BusAnswer
  deriving DecidableEq, Repr

/-- What arrives at the block from outside, one at a time (R41, R160). -/
inductive Input where
  /-- A host write of `value` to register number `reg` (R21, R22); a write to `CMD` issues a command (R19). -/
  | write (reg : Nat) (value : Word)
  /-- A host read of register number `reg` (R21, R22). -/
  | read (reg : Nat)
  /-- The reset input (R160). -/
  | reset
  deriving DecidableEq, Repr

/-- What one host read returned. -/
structure PortRead where
  reg : Nat
  value : PortValue
  deriving DecidableEq, Repr

/-- The state. -/
structure State where
  /-- `ACC` (R11). -/
  acc : Byte
  /-- `OPC` (R12). -/
  opc : Word
  /-- `P1` (R13). -/
  p1 : Word
  /-- `P2` (R13). -/
  p2 : Word
  /-- `DIN` (R14). -/
  din : Byte
  /-- `RES` (R15). -/
  res : Result
  /-- `SESS` (R17). -/
  sess : Session
  /-- `FAULT` (R18). -/
  fault : FaultCode
  /-- The bus call that has not returned, if a command is hung on one (R36, R162, log 3 [DEDUCED]). -/
  waiting : Option BusCall
  /-- The model's own: what the host and the reset line do next, in order (log 1 [DESIGN CHOICE]). -/
  inputs : List Input
  /-- The model's own: scripted answers of the environment, in order (R35, log 2 [DESIGN CHOICE]). -/
  answers : List BusAnswer
  /-- The model's own: how many free values have been drawn (log 2 [DESIGN CHOICE], log 5 [DESIGN CHOICE]). -/
  draws : Nat
  /-- The model's own: the event history, oldest first (R5, R25). -/
  events : List BusEvent
  /-- The model's own: what host reads returned, oldest first (R5). -/
  portReads : List PortRead
  deriving DecidableEq, Repr

/-- Why the machine stops with a fault: never. The spec's faults are values of the register `FAULT`, after which the
block goes on, ignoring commands (R147, R148), and a bus call that never returns is no fault (R155): both are next
states of the model. So no step raises a fault of this type, and it has no constructor. -/
inductive Fault where
  deriving DecidableEq, Repr

/-- Why the machine refuses. -/
inductive Refusal where
  /-- Raised by an arm of `exec` whose instruction has no meaning yet: by none of this model's arms. Safe: the model
  stops where the hardware goes on. -/
  | notModelled (mnemonic : String)
  deriving DecidableEq, Repr

/-- The machine after reset (R26, R161), with nothing placed and nothing scripted (log 6 [DESIGN CHOICE]). -/
def State.reset : State where
  acc := 0xFF
  opc := 0x0000
  p1 := 0x0000
  p2 := 0x0000
  din := 0x00
  res := .noResult
  sess := .closed
  fault := .noFault
  waiting := none
  inputs := []
  answers := []
  draws := 0
  events := []
  portReads := []

end Sys2Proof.Machine
end

