-- ==== Sys2Proof/Machine/Operands.lean ====
section
/-! DEFINITION. The pure functions of the block: the CRC (spec/40_crc8.md R70 to R75), words and bytes (R56), frames
(R54) and the parser's judgement (R100). -/

namespace Sys2Proof.Machine

/-- `crc8_bit`: shift left in 8 bits, and XOR with the polynomial when the bit shifted out was 1 (R70). -/
def crc8Bit (a : Byte) : Byte :=
  if a.getLsbD 7 then (a <<< 1) ^^^ crcPoly else a <<< 1

/-- `crc8_bit` applied `n` times (R71). -/
def crc8Bits : Nat → Byte → Byte
  | 0, a => a
  | n + 1, a => crc8Bits n (crc8Bit a)

/-- `crc8_byte`: XOR the byte in, then eight bit steps (R71). -/
def crc8Byte (a b : Byte) : Byte := crc8Bits 8 (a ^^^ b)

/-- One step of the bit-serial form: shift, and XOR the polynomial when the bit shifted out differs from `x` (R76). -/
def serialStep (a : Byte) (x : Bool) : Byte :=
  if Bool.xor (a.getLsbD 7) x then (a <<< 1) ^^^ crcPoly else a <<< 1

/-- The byte step in its bit-serial form, bit 7 of the byte first: a law of `crc8Byte`, not its definition (R76). -/
def crc8Serial (a b : Byte) : Byte :=
  [7, 6, 5, 4, 3, 2, 1, 0].foldl (fun r k => serialStep r (b.getLsbD k)) a

/-- `crc8` of a byte list (R72). -/
def crc8 (bs : List Byte) : Byte := bs.foldl crc8Byte crcStart

/-- The high byte of a word, the first on the wire (R37, R56). -/
def hiByte (w : Word) : Byte := w.extractLsb' 8 8

/-- The low byte of a word (R37, R56). -/
def loByte (w : Word) : Byte := w.extractLsb' 0 8

/-- The word whose bytes are `hi` and `lo` (R56). -/
def wordOf (hi lo : Byte) : Word := hi ++ lo

/-- `crc8_word`: the checksum of a word, over its two bytes, high byte first (R74). -/
def crc8Word (w : Word) : Byte := crc8 [hiByte w, loByte w]

/-- A group `[b0, b1, c]` is valid when the checksum of its data bytes is `c` (R75). -/
def groupValid (b0 b1 c : Byte) : Bool := crc8 [b0, b1] == c

/-- The three bytes of a parameter word: high, low, checksum (R54). -/
def group (w : Word) : List Byte := [hiByte w, loByte w, crc8Word w]

/-- The frame of a sensor opcode and its parameter words (R54). The opcode carries no checksum. -/
def frame (opc : Word) (ps : List Word) : List Byte :=
  [hiByte opc, loByte opc] ++ ps.flatMap group

/-- Byte `k` of a buffer; the parser asks only for positions below the buffer's length (R38, R98). -/
def byteAt (buf : List Byte) (k : Nat) : Byte := buf.getD k 0

/-- Group `i` of a response is at offsets `3i`, `3i+1`, `3i+2` (R38, R98); whether its checksum is wrong. -/
def groupBad (buf : List Byte) (i : Nat) : Bool :=
  !groupValid (byteAt buf (groupBytes * i)) (byteAt buf (groupBytes * i + 1)) (byteAt buf (groupBytes * i + 2))

/-- Word `i` of a response (R99). -/
def wordAt (buf : List Byte) (i : Nat) : Word :=
  wordOf (byteAt buf (groupBytes * i)) (byteAt buf (groupBytes * i + 1))

/-- The group indexes in ascending order (R100, D13). -/
def groupIndexes : List (Fin 3) := [0, 1, 2]

/-- The lowest index below `n` of an invalid group (R98, D13). -/
def firstBadGroup (n : Nat) (buf : List Byte) : Option (Fin 3) :=
  groupIndexes.find? fun i => decide (i.val < n) && groupBad buf i.val

/-- `parse`: the judgement on a response of `n` groups, `n` 1, 2 or 3 and `buf` of `3n` bytes (R100). -/
def parse (n : Nat) (buf : List Byte) : Result :=
  match firstBadGroup n buf with
  | some g => .failChecksum g
  | none => .ok ((List.range n).map (wordAt buf))

end Sys2Proof.Machine
end

