-- ==== Sys2Proof/Machine/Ops.lean ====
section
/-! DEFINITION. The operations every command is built from: ignoring commands while faulted (R148), raising a fault
(R147), the session precondition (R113), one call on the bus environment (R31 to R36), writing `RES` (R15), and the
reset of the block (R161). -/

namespace Sys2Proof.Machine

/-- The outcome of a step of this machine. -/
abbrev Outcome := Host.Outcome State Fault Refusal

/-- `raise F`: `FAULT <- F` and the command ends; nothing else changes (R147). -/
def raiseFault (f : FaultCode) (s : State) : State := { s with fault := f }

/-- While `FAULT` is not `None` every command is ignored (R148). -/
def unlessFaulted (body : State → State) (s : State) : State :=
  if s.fault = .noFault then body s else s

/-- The session precondition of `SEND*` and `READ*`: `NotOpen` while Closed (R113, R150). -/
def whenOpen (body : State → State) (s : State) : State :=
  match s.sess with
  | .opened => body s
  | .closed => raiseFault .notOpen s

/-- `RES <- r` (R15). -/
def setRes (r : Result) (s : State) : State := { s with res := r }

/-- `ACC <- a` (R11). -/
def setAcc (a : Byte) (s : State) : State := { s with acc := a }

/-- `SESS <- v` (R17). -/
def setSess (v : Session) (s : State) : State := { s with sess := v }

/-- An answer as the call can carry it: only a read returns bytes, and only a write leaves bytes on the bus, no more
than it was given (R31 to R33, log 4 [DEDUCED]). -/
def shapeAnswer : BusCall → BusAnswer → BusAnswer
  | .openBus, .ok _ => .ok []
  | .openBus, .fail _ => .fail 0
  | .openBus, .never _ => .never 0
  | .closeBus, .ok _ => .ok []
  | .closeBus, .fail _ => .fail 0
  | .closeBus, .never _ => .never 0
  | .write _, .ok _ => .ok []
  | .write buf, .fail n => .fail (min n buf.length)
  | .write buf, .never n => .never (min n buf.length)
  | .read _, .ok buf => .ok buf
  | .read _, .fail _ => .fail 0
  | .read _, .never _ => .never 0

/-- The environment's next answer: the scripted one if there is one, else a free value (R35, log 2 [DESIGN CHOICE]). -/
def nextAnswer (s : State) : BusAnswer :=
  match s.answers with
  | a :: _ => a
  | [] => Config.busDraw s.draws

/-- What the environment answers to the call `c` made now. -/
def answerTo (c : BusCall) (s : State) : BusAnswer := shapeAnswer c (nextAnswer s)

/-- The state once the environment's next answer is used up: a script is one shorter, a free value is never drawn twice
(R35, log 2 [DESIGN CHOICE]). -/
def useAnswer (s : State) : State :=
  { s with
    answers := s.answers.tail
    draws := if s.answers.isEmpty then s.draws + 1 else s.draws }

/-- The state once the call `c` is in the event history with its answer, which is used up (R5, R35, R40). -/
def logCall (c : BusCall) (s : State) : State := { useAnswer s with events := s.events ++ [⟨c, answerTo c s⟩] }

/-- The command waits for the call `c` to return (R36, log 3 [DEDUCED]). -/
def awaitReturn (c : BusCall) (s : State) : State := { s with waiting := some c }

/-- One call on the bus environment (R31 to R36): `onOk` goes on from a success with the bytes returned, `onFail` from
a failure; a call that never returns leaves the command waiting, with no state of the block changed (R36, log 3 [DEDUCED]). -/
def busCall (c : BusCall) (onOk : List Byte → State → State) (onFail : State → State) (s : State) : State :=
  match answerTo c s with
  | .ok buf => onOk buf (logCall c s)
  | .fail _ => onFail (logCall c s)
  | .never _ => awaitReturn c (logCall c s)

/-- The bytes of a frame that have reached the device, by the event of its `BusWrite` (R32). -/
def delivered (e : BusEvent) : List Byte :=
  match e.call, e.answer with
  | .write buf, .ok _ => buf
  | .write buf, .fail n => buf.take n
  | .write buf, .never n => buf.take n
  | .openBus, _ => []
  | .closeBus, _ => []
  | .read _, _ => []

/-- Reset of the block: every piece of state at its reset value, a waiting command abandoned, no bus call; the
environment and what is still to come from outside are not touched (R26, R161, R162, log 10 [DEDUCED]). -/
def resetBlock (s : State) : State :=
  { s with
    acc := State.reset.acc
    opc := State.reset.opc
    p1 := State.reset.p1
    p2 := State.reset.p2
    din := State.reset.din
    res := State.reset.res
    sess := State.reset.sess
    fault := State.reset.fault
    waiting := State.reset.waiting }

end Sys2Proof.Machine
end

