-- ==== Sys2Proof/Machine/Crc.lean ====
section
/-! DEFINITION. `CRCINIT`, `CRCBYTE`, `CRC8W` (spec/40_crc8.md R78 to R80). They need no session, make no bus call and
write `ACC` alone. -/

namespace Sys2Proof.Machine

/-- `CRCINIT`: `ACC <- 0xFF` (R78). -/
def execCrcInit (s : State) : Outcome :=
  .next (unlessFaulted (setAcc crcStart) s)

/-- `CRCBYTE`: `ACC <- crc8_byte(ACC, DIN)` (R79). -/
def execCrcByte (s : State) : Outcome :=
  .next (unlessFaulted (fun t => setAcc (crc8Byte t.acc t.din) t) s)

/-- `CRC8W`: `ACC <- crc8_word(P1)` (R80). -/
def execCrc8w (s : State) : Outcome :=
  .next (unlessFaulted (fun t => setAcc (crc8Word t.p1) t) s)

end Sys2Proof.Machine
end

