-- ==== Sys2Proof/Machine/Framer.lean ====
section
/-! DEFINITION. `SEND0`, `SEND1`, `SEND2` (spec/41_framer.md R85 to R91). -/

namespace Sys2Proof.Machine

/-- What the three sends share (R85, R86): one `BusWrite` of the whole frame, `RES` from its answer. -/
def sendFrame (params : State → List Word) (s : State) : State :=
  unlessFaulted
    (whenOpen fun t =>
      busCall (.write (frame t.opc (params t))) (fun _ u => setRes (.ok []) u) (setRes .failTransport) t)
    s

/-- `SEND0`: the bare sensor opcode (R89). -/
def execSend0 (s : State) : Outcome := .next (sendFrame (fun _ => []) s)

/-- `SEND1`: the sensor opcode and `P1` (R90). -/
def execSend1 (s : State) : Outcome := .next (sendFrame (fun t => [t.p1]) s)

/-- `SEND2`: the sensor opcode, `P1`, `P2` (R91). -/
def execSend2 (s : State) : Outcome := .next (sendFrame (fun t => [t.p1, t.p2]) s)

end Sys2Proof.Machine
end

