-- ==== Sys2Proof/Machine/Parser.lean ====
section
/-! DEFINITION. `READ1`, `READ2`, `READ3` (spec/42_parser.md R95 to R103). -/

namespace Sys2Proof.Machine

/-- `RES` from the buffer a read returned: a buffer of another length is a failed read (R33, R97), else `parse`
(R100). -/
def readResult (n : Nat) (buf : List Byte) : Result :=
  if buf.length = groupBytes * n then parse n buf else .failTransport

/-- What the three reads share (R95): one `BusRead` of `3n` bytes, `RES` from its answer. -/
def readWords (n : Nat) (s : State) : State :=
  unlessFaulted
    (whenOpen
      (busCall (.read (groupBytes * n)) (fun buf u => setRes (readResult n buf) u) (setRes .failTransport)))
    s

/-- `READ1` (R101). -/
def execRead1 (s : State) : Outcome := .next (readWords 1 s)

/-- `READ2` (R102). -/
def execRead2 (s : State) : Outcome := .next (readWords 2 s)

/-- `READ3` (R103). -/
def execRead3 (s : State) : Outcome := .next (readWords 3 s)

end Sys2Proof.Machine
end

