-- ==== Sys2Proof/Machine/Sessions.lean ====
section
/-! DEFINITION. `OPEN` and `CLOSE` (spec/43_session.md R110 to R112). -/

namespace Sys2Proof.Machine

/-- `OPEN` on a block that is not faulted: `AlreadyOpen` while Open; else `BusOpen`, and Open on success (R111). -/
def acquireBus (s : State) : State :=
  match s.sess with
  | .opened => raiseFault .alreadyOpen s
  | .closed => busCall .openBus (fun _ u => setRes (.ok []) (setSess .opened u)) (setRes .failTransport) s

/-- `CLOSE` on a block that is not faulted: nothing to release while Closed; else `BusClose`, and Closed whatever it
answers (R112, C4). -/
def releaseBus (s : State) : State :=
  match s.sess with
  | .closed => setRes (.ok []) s
  | .opened =>
    busCall .closeBus (fun _ u => setRes (.ok []) (setSess .closed u))
      (fun u => setRes .failTransport (setSess .closed u)) s

/-- `OPEN` (R111). -/
def execOpen (s : State) : Outcome := .next (unlessFaulted acquireBus s)

/-- `CLOSE` (R112). -/
def execClose (s : State) : Outcome := .next (unlessFaulted releaseBus s)

end Sys2Proof.Machine
end

