-- ==== Sys2Proof/Machine/Dispatch.lean ====
section
/-! DEFINITION. The meaning of each command, one arm per row of spec/opcode_table.json. -/

namespace Sys2Proof.Machine

def exec (i : Instr) (s : State) : Host.Outcome State Fault Refusal :=
  match i with
  | .openSession => Sys2Proof.Machine.execOpen s
  | .closeSession => Sys2Proof.Machine.execClose s
  | .crcInit => Sys2Proof.Machine.execCrcInit s
  | .crcByte => Sys2Proof.Machine.execCrcByte s
  | .crc8w => Sys2Proof.Machine.execCrc8w s
  | .send0 => Sys2Proof.Machine.execSend0 s
  | .send1 => Sys2Proof.Machine.execSend1 s
  | .send2 => Sys2Proof.Machine.execSend2 s
  | .read1 => Sys2Proof.Machine.execRead1 s
  | .read2 => Sys2Proof.Machine.execRead2 s
  | .read3 => Sys2Proof.Machine.execRead3 s

end Sys2Proof.Machine
end

