-- ==== Sys2Proof/Machine/Flags.lean ====
section
/-! DEFINITION. The status the host reads: `ST` field by field (spec/10_state.md R16), `FLT` (R18), `SESS` as a byte
(R21), and the word registers (R16). The block has no other flag (R24). -/

namespace Sys2Proof.Machine

/-- `ST.valid`, bit 7 (R16). -/
def stValid : Result → BitVec 1
  | .noResult => 0
  | .ok _ => 1
  | .failTransport => 1
  | .failChecksum _ => 1

/-- The number of payload words of a result (R16). -/
def wordCount : Result → Nat
  | .noResult => 0
  | .ok ws => ws.length
  | .failTransport => 0
  | .failChecksum _ => 0

/-- `ST.cnt`, bits 6:5 (R16). -/
def stCnt (r : Result) : BitVec 2 := BitVec.ofNat 2 (wordCount r)

/-- `ST.grp`, bits 4:3 (R16). -/
def stGrp : Result → BitVec 2
  | .noResult => 0
  | .ok _ => 0
  | .failTransport => 0
  | .failChecksum g => BitVec.ofNat 2 g.val

/-- `ST.kind`, bits 2:1 (R16, R144); 0b11, the host's kind Protocol, is never produced (R143). -/
def stKind : Result → BitVec 2
  | .noResult => 0b00
  | .ok _ => 0b00
  | .failTransport => 0b01
  | .failChecksum _ => 0b10

/-- `ST.ok`, bit 0 (R16). -/
def stOk : Result → BitVec 1
  | .noResult => 0
  | .ok _ => 1
  | .failTransport => 0
  | .failChecksum _ => 0

/-- The status register `ST` (R16). -/
def stReg (r : Result) : Byte := stValid r ++ stCnt r ++ stGrp r ++ stKind r ++ stOk r

/-- The register `FLT` (R18). -/
def fltReg : FaultCode → Byte
  | .noFault => 0x00
  | .illegalCommand => 0x01
  | .notOpen => 0x02
  | .alreadyOpen => 0x03

/-- `SESS` read as 8 bits, bits 7:1 zero (R17, R21). -/
def sessReg : Session → Byte
  | .closed => 0x00
  | .opened => 0x01

/-- The word register `Wi`: the word `i` of a success that has one, else no value (R16). -/
def wordReg (r : Result) (i : Nat) : Option Word :=
  match r with
  | .noResult => none
  | .ok ws => ws[i]?
  | .failTransport => none
  | .failChecksum _ => none

end Sys2Proof.Machine
end

