-- ==== Sys2Proof/Machine/Port.lean ====
section
/-! DEFINITION. The host port: registers by number (spec/10_state.md R21, R22), commands through `CMD` (R19), and what
one input from outside does to the block (R41, R160). -/

namespace Sys2Proof.Machine

/-- The registers of the host port (R21). -/
inductive PortReg where
  | cmd
  | st
  | flt
  | sess
  | opc
  | p1
  | p2
  | din
  | acc
  | w0
  | w1
  | w2
  deriving DecidableEq, Repr

/-- The register a number names; 12 and above name none (R21). -/
def portReg : Nat → Option PortReg
  | 0 => some .cmd
  | 1 => some .st
  | 2 => some .flt
  | 3 => some .sess
  | 4 => some .opc
  | 5 => some .p1
  | 6 => some .p2
  | 7 => some .din
  | 8 => some .acc
  | 9 => some .w0
  | 10 => some .w1
  | 11 => some .w2
  | _ => none

/-- The number of a register (R21). -/
def portNumber : PortReg → Nat
  | .cmd => 0
  | .st => 1
  | .flt => 2
  | .sess => 3
  | .opc => 4
  | .p1 => 5
  | .p2 => 6
  | .din => 7
  | .acc => 8
  | .w0 => 9
  | .w1 => 10
  | .w2 => 11

/-- The low byte of a port value: a write to a register narrower than the port drops the rest (R22). -/
def narrow (v : Word) : Byte := v.setWidth 8

/-- A byte issued as a command: a legal code runs its command, an illegal one raises `IllegalCommand` unless the block
is faulted (R59, R60, R148, R149, R152). -/
def issueCode (c : Byte) (s : State) : Outcome :=
  match decodeCode c with
  | .ok i => exec i s
  | .error _ => .next (unlessFaulted (raiseFault .illegalCommand) s)

/-- A host write to a register that is not `CMD`: the operand registers take the value, the others ignore it (R21,
R22, D28). -/
def writeReg (r : PortReg) (v : Word) (s : State) : State :=
  match r with
  | .cmd => s
  | .st => s
  | .flt => s
  | .sess => s
  | .opc => { s with opc := v }
  | .p1 => { s with p1 := v }
  | .p2 => { s with p2 := v }
  | .din => { s with din := narrow v }
  | .acc => s
  | .w0 => s
  | .w1 => s
  | .w2 => s

/-- A host write by register number (R19, R21, R22). -/
def hostWrite (reg : Nat) (v : Word) (s : State) : Outcome :=
  match portReg reg with
  | some .cmd => issueCode (narrow v) s
  | some r => .next (writeReg r v s)
  | none => .next s

/-- The value a register holds for a host read, if it holds one (R16, R19, R21). -/
def heldValue (r : PortReg) (s : State) : Option PortValue :=
  match r with
  | .cmd => none
  | .st => some (.byte (stReg s.res))
  | .flt => some (.byte (fltReg s.fault))
  | .sess => some (.byte (sessReg s.sess))
  | .opc => some (.word s.opc)
  | .p1 => some (.word s.p1)
  | .p2 => some (.word s.p2)
  | .din => some (.byte s.din)
  | .acc => some (.byte s.acc)
  | .w0 => (wordReg s.res 0).map .word
  | .w1 => (wordReg s.res 1).map .word
  | .w2 => (wordReg s.res 2).map .word

/-- The registers of 16 bits; the others are read as 8 bits (R21). -/
def isWordReg (r : PortReg) : Bool := [.opc, .p1, .p2, .w0, .w1, .w2].contains r

/-- Free value number `n`, for a read of a register number that holds no value: of the register's width, and of either
width where the number names no register (R16, R19, R21, D28, U3, log 5 [DESIGN CHOICE]). -/
def drawnValue (reg : Nat) (n : Nat) : PortValue :=
  match portReg reg with
  | none => Config.portDraw n
  | some r => if isWordReg r then .word (Config.wordDraw n) else .byte (Config.byteDraw n)

/-- The value register number `reg` holds, if any (R21). -/
def portHolds (reg : Nat) (s : State) : Option PortValue :=
  (portReg reg).bind fun r => heldValue r s

/-- A host read by register number: the value held, or a fresh free value (R21, R22, U3). -/
def hostRead (reg : Nat) (s : State) : State :=
  match portHolds reg s with
  | some v => { s with portReads := s.portReads ++ [⟨reg, v⟩] }
  | none => { s with portReads := s.portReads ++ [⟨reg, drawnValue reg s.draws⟩], draws := s.draws + 1 }

/-- The state once its first input is taken. -/
def takeInput (s : State) : State := { s with inputs := s.inputs.tail }

/-- What the block does next: nothing while no input is there or, hung on a bus call, while the input is an access of
the host (which is blocked, R36, R41); else it takes the input (log 1 [DESIGN CHOICE], log 3 [DEDUCED], log 10 [DEDUCED]). -/
def respond (s : State) : Outcome :=
  match s.inputs with
  | [] => .next s
  | .reset :: _ => .next (resetBlock (takeInput s))
  | .write reg v :: _ => if s.waiting.isSome then .next s else hostWrite reg v (takeInput s)
  | .read reg :: _ => if s.waiting.isSome then .next s else .next (hostRead reg (takeInput s))

/-- `s` with the first byte of a command placed as the next thing the host writes to `CMD`; a command that was waiting
is gone, or the block could not take it (log 8 [DESIGN CHOICE]). -/
def placeCommand (bs : List Byte) (s : State) : State :=
  { s with
    inputs := .write (portNumber .cmd) ((bs.headD 0).setWidth 16) :: s.inputs
    waiting := none }

end Sys2Proof.Machine
end

