-- ==== Sys2Proof/Machine/Step.lean ====
section
/-! DEFINITION. One step of the machine: it takes the next input from outside (a host access or the reset), or waits
(log 1 [DESIGN CHOICE]). -/

namespace Sys2Proof.Machine

/-- One step. -/
def step (s : State) : Host.Outcome State Fault Refusal := respond s

/-- `s` with the command whose bits are `w` as the host's next write to `CMD` (log 1 [DESIGN CHOICE], log 8 [DESIGN CHOICE]). -/
def State.withFetchWord (s : State) (nbits w : Nat) : State := placeCommand (tableBytes nbits w) s

end Sys2Proof.Machine
end

