-- ==== Sys2Proof/Safety.lean ====
section
/-! DEFINITION. What counts as a safe run, and the invariant every step keeps. -/

namespace Sys2Proof.Machine

/-- A run that reaches a fault has gone wrong, never ended normally (R148). -/
def goneWrong (s : State) : Bool := s.fault != .noFault

/-- A run hung on a bus call: no error and no fault, but no command completes until reset (R36, R155). -/
def hung (s : State) : Bool := s.waiting.isSome

/-- A result has at most three words (R15). -/
def Result.wf : Result → Bool
  | .noResult => true
  | .ok ws => decide (ws.length ≤ 3)
  | .failTransport => true
  | .failChecksum _ => true

/-- The only calls the block makes: writes of 2, 5 or 8 bytes, reads of 3, 6 or 9 (R32, R33). -/
def BusCall.wf : BusCall → Bool
  | .openBus => true
  | .closeBus => true
  | .write buf => [2, 5, 8].contains buf.length
  | .read n => [3, 6, 9].contains n

/-- An event of the history: a call the block makes, with an answer that call can have (R5, R31 to R33). -/
def BusEvent.wf (e : BusEvent) : Bool := e.call.wf && shapeAnswer e.call e.answer == e.answer

/-- The session state in which a call is made: `BusOpen` while Closed, the others while Open (R111 to R113). -/
def callSession : BusCall → Session
  | .openBus => .closed
  | .closeBus => .opened
  | .write _ => .opened
  | .read _ => .opened

/-- The last event of the history is the call `c`, without an answer (R36). -/
def lastUnanswered (c : BusCall) (es : List BusEvent) : Bool :=
  match es.getLast? with
  | none => false
  | some e =>
    match e.answer with
    | .ok _ => false
    | .fail _ => false
    | .never _ => e.call == c

/-- A waiting call is one the block makes, in the session state it needs, on a block that is not faulted, and it is the
unanswered last event of the history (R36, R113, R148). -/
def waitingWf (s : State) : Bool :=
  match s.waiting with
  | none => true
  | some c => c.wf && s.fault == .noFault && s.sess == callSession c && lastUnanswered c s.events

/-- The invariant: results and events are of the spec's shapes and a waiting call is in its place. -/
def inv (s : State) : Bool := s.res.wf && s.events.all BusEvent.wf && waitingWf s

end Sys2Proof.Machine
end

