-- ==== Sys2Proof/Certificates/Slice0/Obligations.lean ====
section
/-! DEFINITION. The statements for the provers. Each docstring names the rule of spec/ it formalises. Where a statement
speaks of the answer of the bus environment it says so for every answer (R35): `answerTo c s` is what the environment
answers to the call `c` made in `s`, scripted in the state or a free value (log 2), and a call that never returns leaves its call in `waiting` (log 3). -/

open Sys2Proof Sys2Proof.Machine

/-! ## Reset -/

/-- R26: the state after reset, as the host sees it too. -/
def Obligations.ResetLeavesSpecValues : Prop :=
  State.reset.acc = 0xFF ∧ State.reset.opc = 0x0000 ∧ State.reset.p1 = 0x0000 ∧ State.reset.p2 = 0x0000 ∧
  State.reset.din = 0x00 ∧ State.reset.res = .noResult ∧ stReg State.reset.res = 0x00 ∧
  (∀ k, wordReg State.reset.res k = none) ∧ State.reset.sess = .closed ∧ State.reset.fault = .noFault

/-- R161, R162 (with log 10, the model's own fields at a reset): from every state, faulted or waiting on a bus call
too, the reset input puts every piece of state of the block at its reset value and makes no bus call. The second clause is
the model's choice (log 1): with nothing from outside a step leaves every state as it is, so a block that is reset waits
for the host's first command. -/
def Obligations.ResetInputResetsEveryState : Prop :=
  (∀ (s : State) (rest : List Input), s.inputs = .reset :: rest →
    step s = .next { State.reset with
      inputs := rest, answers := s.answers, draws := s.draws, events := s.events, portReads := s.portReads }) ∧
  ∀ s : State, s.inputs = [] → step s = .next s

/-! ## The session -/

/-- R111: `OPEN`; that a call that never returns sets `waiting` is the model's form of R36 (log 3), and the answers are
those of log 2. -/
def Obligations.OpenAcquiresBus : Prop :=
  ∀ s : State,
    (s.fault ≠ .noFault → exec .openSession s = .next s) ∧
    (s.fault = .noFault → s.sess = .opened → exec .openSession s = .next { s with fault := .alreadyOpen }) ∧
    (s.fault = .noFault → s.sess = .closed →
      (∀ b, answerTo .openBus s = .ok b →
        exec .openSession s = .next { logCall .openBus s with sess := .opened, res := .ok [] }) ∧
      (∀ n, answerTo .openBus s = .fail n →
        exec .openSession s = .next { logCall .openBus s with res := .failTransport }) ∧
      (∀ n, answerTo .openBus s = .never n →
        exec .openSession s = .next { logCall .openBus s with waiting := some .openBus }))

/-- R112: `CLOSE`; that a call that never returns sets `waiting` is the model's form of R36 (log 3), and the answers are
those of log 2. -/
def Obligations.CloseReleasesBus : Prop :=
  ∀ s : State,
    (s.fault ≠ .noFault → exec .closeSession s = .next s) ∧
    (s.fault = .noFault → s.sess = .closed → exec .closeSession s = .next { s with res := .ok [] }) ∧
    (s.fault = .noFault → s.sess = .opened →
      (∀ b, answerTo .closeBus s = .ok b →
        exec .closeSession s = .next { logCall .closeBus s with sess := .closed, res := .ok [] }) ∧
      (∀ n, answerTo .closeBus s = .fail n →
        exec .closeSession s = .next { logCall .closeBus s with sess := .closed, res := .failTransport }) ∧
      (∀ n, answerTo .closeBus s = .never n →
        exec .closeSession s = .next { logCall .closeBus s with waiting := some .closeBus }))

/-- R110, R114: the session moves from Closed to Open only by an `OPEN` that the environment answers with success, and
from Open to Closed only by `CLOSE` or reset. -/
def Obligations.SessionMovesOnlyByOpenCloseReset : Prop :=
  ∀ s t : State, step s = .next t →
    (s.sess = .closed → t.sess = .opened →
      ∃ v rest b, s.inputs = .write 0 v :: rest ∧ v.setWidth 8 = (0x01 : Byte) ∧ s.fault = .noFault ∧
        answerTo .openBus s = .ok b) ∧
    (s.sess = .opened → t.sess = .closed →
      (∃ rest, s.inputs = .reset :: rest) ∨
      (∃ v rest, s.inputs = .write 0 v :: rest ∧ v.setWidth 8 = (0x02 : Byte) ∧ s.fault = .noFault))

/-! ## The CRC functions -/

/-- R70: the bit step in arithmetic: the doubled value without its ninth bit, XORed with 0x31 when bit 7 was set; and
the rule's examples. -/
def Obligations.CrcBitStepShiftsAndReduces : Prop :=
  (∀ a : Byte, 128 ≤ a.toNat → (crc8Bit a).toNat = (2 * a.toNat - 256) ^^^ 0x31) ∧
  (∀ a : Byte, a.toNat < 128 → (crc8Bit a).toNat = 2 * a.toNat) ∧
  crc8Bit 0x00 = 0x00 ∧ crc8Bit 0x01 = 0x02 ∧ crc8Bit 0x7F = 0xFE ∧ crc8Bit 0x80 = 0x31 ∧ crc8Bit 0xFF = 0xCF ∧
  crc8Bit 0x98 = 0x01

/-- R71: the byte step is the XOR of the byte and eight bit steps; and the rule's examples. -/
def Obligations.CrcByteStepIsEightBitSteps : Prop :=
  (∀ a b : Byte, crc8Byte a b =
    crc8Bit (crc8Bit (crc8Bit (crc8Bit (crc8Bit (crc8Bit (crc8Bit (crc8Bit (a ^^^ b))))))))) ∧
  crc8Byte 0xFF 0xBE = 0x0C ∧ crc8Byte 0x0C 0xEF = 0x92 ∧ crc8Byte 0x00 0x00 = 0x00 ∧ crc8Byte 0x00 0x01 = 0x31 ∧
  crc8Byte 0x00 0x80 = 0x7A ∧ crc8Byte 0xFF 0xFF = 0x00 ∧ crc8Byte 0xFF 0x00 = 0xAC

/-- R72: the CRC of a list starts at 0xFF and takes the bytes from the left. -/
def Obligations.CrcOfListFoldsFromFF : Prop :=
  crc8 [] = 0xFF ∧ ∀ (bs : List Byte) (b : Byte), crc8 (bs ++ [b]) = crc8Byte (crc8 bs) b

/-- R74: the checksum of a word; and the rule's examples. -/
def Obligations.CrcOfWordTakesHighByteFirst : Prop :=
  (∀ w : Word, crc8Word w = crc8 [w.extractLsb' 8 8, w.extractLsb' 0 8] ∧
    crc8Word w = crc8Byte (crc8Byte 0xFF (w.extractLsb' 8 8)) (w.extractLsb' 0 8)) ∧
  crc8Word 0xBEEF = 0x92 ∧ crc8Word 0x0000 = 0x81 ∧ crc8Word 0xFFFF = 0xAC ∧ crc8Word 0xD400 = 0xC6

/-- R75: a group is valid exactly when its third byte is the checksum of its first two. -/
def Obligations.GroupValidWhenChecksumMatches : Prop :=
  ∀ b0 b1 c : Byte, groupValid b0 b1 c = true ↔ crc8 [b0, b1] = c

/-- R76: the byte step equals its bit-serial form, bit 7 of the byte first. -/
def Obligations.CrcByteStepEqualsBitSerialForm : Prop :=
  ∀ a b : Byte, crc8Byte a b = crc8Serial a b

/-- R77 (b): the checksum of a word is affine over XOR. -/
def Obligations.CrcOfWordIsAffine : Prop :=
  ∀ u v : Word, crc8Word (u ^^^ v) = crc8Word u ^^^ crc8Word v ^^^ 0x81

/-- R77 (c): a list followed by its own checksum has CRC 0. -/
def Obligations.CrcResidueIsZero : Prop :=
  ∀ bs : List Byte, crc8 (bs ++ [crc8 bs]) = 0x00

/-- R77 (a): the table form, and the table is a permutation. -/
def Obligations.CrcTableIsPermutation : Prop :=
  (∀ a b : Byte, crc8Byte a b = crc8Byte 0x00 (a ^^^ b)) ∧
  (∀ y : Byte, ∃ x : Byte, crc8Byte 0x00 x = y ∧ ∀ x' : Byte, crc8Byte 0x00 x' = y → x' = x)

/-- R77 (d): for each high byte and each checksum exactly one low byte gives that checksum, so each checksum is that of
exactly 256 words. -/
def Obligations.EachChecksumOncePerHighByte : Prop :=
  ∀ hi c : Byte, ∃ lo : Byte, crc8Word (wordOf hi lo) = c ∧ ∀ lo' : Byte, crc8Word (wordOf hi lo') = c → lo' = lo

/-- R77 (e): in a valid group of 24 bits, changing one, two or three bits gives an invalid group. The bits of `g` from
the top are the two data bytes and the checksum; `e` holds the bits that change. -/
def Obligations.UpToThreeBitErrorsInGroupDetected : Prop :=
  ∀ g e : BitVec 24,
    groupValid (g.extractLsb' 16 8) (g.extractLsb' 8 8) (g.extractLsb' 0 8) = true →
    1 ≤ (List.range 24).countP (fun k => e.getLsbD k) → (List.range 24).countP (fun k => e.getLsbD k) ≤ 3 →
    groupValid ((g ^^^ e).extractLsb' 16 8) ((g ^^^ e).extractLsb' 8 8) ((g ^^^ e).extractLsb' 0 8) = false

/-! ## The CRC commands -/

/-- R78: `CRCINIT`. -/
def Obligations.CrcInitSetsStartValue : Prop :=
  ∀ s : State,
    (s.fault ≠ .noFault → exec .crcInit s = .next s) ∧
    (s.fault = .noFault → exec .crcInit s = .next { s with acc := 0xFF })

/-- R79: `CRCBYTE`. -/
def Obligations.CrcByteFeedsDin : Prop :=
  ∀ s : State,
    (s.fault ≠ .noFault → exec .crcByte s = .next s) ∧
    (s.fault = .noFault → exec .crcByte s = .next { s with acc := crc8Byte s.acc s.din })

/-- R80: `CRC8W`: the checksum of `P1`, whatever `ACC` held; it equals `CRCINIT` and two `CRCBYTE` with the bytes of
`P1` in `DIN`, except that it leaves `DIN` alone. -/
def Obligations.Crc8wIsChecksumOfP1 : Prop :=
  ∀ s : State,
    (s.fault ≠ .noFault → exec .crc8w s = .next s) ∧
    (s.fault = .noFault → exec .crc8w s = .next { s with acc := crc8Word s.p1 } ∧
      ∀ t u v, exec .crcInit s = .next t → exec .crcByte { t with din := s.p1.extractLsb' 8 8 } = .next u →
        exec .crcByte { u with din := s.p1.extractLsb' 0 8 } = .next v →
        exec .crc8w s = .next { v with din := s.din })

/-- R11: `ACC` changes only by the three CRC commands, on a block that is not faulted, and by reset. -/
def Obligations.AccChangesOnlyByCrcCommandsAndReset : Prop :=
  ∀ s t : State, step s = .next t → t.acc ≠ s.acc →
    (∃ rest, s.inputs = .reset :: rest) ∨
    (∃ v rest, s.inputs = .write 0 v :: rest ∧ s.fault = .noFault ∧
      (v.setWidth 8 = (0x10 : Byte) ∨ v.setWidth 8 = (0x11 : Byte) ∨ v.setWidth 8 = (0x12 : Byte)))

/-- The frame of the CRC commands: a next state differs in `ACC` alone (R78 to R80). -/
def Obligations.CrcCommandsChangeAccOnly : Prop :=
  ∀ (i : Instr) (s t : State), i = .crcInit ∨ i = .crcByte ∨ i = .crc8w → exec i s = .next t →
    t = { s with acc := t.acc }

/-! ## Words, frames and responses -/

/-- R56: splitting and assembling words. -/
def Obligations.WordSplitAndAssemblyAgree : Prop :=
  (∀ w : Word, (hiByte w).toNat = w.toNat / 256 ∧ (loByte w).toNat = w.toNat % 256) ∧
  (∀ hi lo : Byte, (wordOf hi lo).toNat = hi.toNat * 256 + lo.toNat) ∧
  (∀ w : Word, wordOf (hiByte w) (loByte w) = w) ∧
  (∀ hi lo : Byte, hiByte (wordOf hi lo) = hi ∧ loByte (wordOf hi lo) = lo)

/-- R54: the length of a frame, its opcode bytes, and each parameter group, whose checksum covers the two bytes of its
own word alone. -/
def Obligations.FrameLayoutIsOpcodeThenGroups : Prop :=
  ∀ (opc : Word) (ps : List Word),
    (frame opc ps).length = 2 + 3 * ps.length ∧
    (frame opc ps).take 2 = [opc.extractLsb' 8 8, opc.extractLsb' 0 8] ∧
    ∀ (k : Nat) (p : Word), ps[k]? = some p →
      ((frame opc ps).drop (2 + 3 * k)).take 3 = [p.extractLsb' 8 8, p.extractLsb' 0 8, crc8Word p]

/-- R99: when every group of a response of one to three groups is valid, the result is the words in wire order. -/
def Obligations.ParseAcceptsValidGroups : Prop :=
  ∀ gs : List (Byte × Byte × Byte), 1 ≤ gs.length → gs.length ≤ 3 →
    (∀ g ∈ gs, crc8 [g.1, g.2.1] = g.2.2) →
    parse gs.length (gs.flatMap fun g => [g.1, g.2.1, g.2.2]) = .ok (gs.map fun g => g.1 ++ g.2.1)

/-- R98: when some group is invalid, the result is the checksum failure of the lowest such group and no word. -/
def Obligations.ParseReportsLowestInvalidGroup : Prop :=
  ∀ (gs : List (Byte × Byte × Byte)) (k : Fin 3), gs.length ≤ 3 →
    (∀ (j : Nat) (g : Byte × Byte × Byte), j < k.val → gs[j]? = some g → crc8 [g.1, g.2.1] = g.2.2) →
    (∃ g, gs[k.val]? = some g ∧ crc8 [g.1, g.2.1] ≠ g.2.2) →
    parse gs.length (gs.flatMap fun g => [g.1, g.2.1, g.2.2]) = .failChecksum k

/-- R106 (a): `parse` of `n` groups gives exactly `n` words or the index of a group below `n`. -/
def Obligations.ParseGivesAllWordsOrOneFailure : Prop :=
  ∀ (n : Nat) (buf : List Byte), n ≤ 3 →
    (∃ ws, parse n buf = .ok ws ∧ ws.length = n) ∨ (∃ g : Fin 3, parse n buf = .failChecksum g ∧ g.val < n)

/-- R106 (c): the parser accepts the groups the framer makes and gives back their words. -/
def Obligations.ParseInvertsGroups : Prop :=
  ∀ ws : List Word, ws.length ≤ 3 → parse ws.length (ws.flatMap group) = .ok ws

/-! ## The framer -/

/-- R89: `SEND0`; that a write that never returns sets `waiting` is the model's form of R36 (log 3), and the answers are
those of log 2. -/
def Obligations.Send0SendsBareOpcode : Prop :=
  ∀ s : State,
    (s.fault ≠ .noFault → exec .send0 s = .next s) ∧
    (s.fault = .noFault → s.sess = .closed → exec .send0 s = .next { s with fault := .notOpen }) ∧
    (s.fault = .noFault → s.sess = .opened → ∀ c : BusCall,
      c = .write [s.opc.extractLsb' 8 8, s.opc.extractLsb' 0 8] →
      (∀ b, answerTo c s = .ok b → exec .send0 s = .next { logCall c s with res := .ok [] }) ∧
      (∀ n, answerTo c s = .fail n → exec .send0 s = .next { logCall c s with res := .failTransport }) ∧
      (∀ n, answerTo c s = .never n → exec .send0 s = .next { logCall c s with waiting := some c }))

/-- R90: `SEND1`; that a write that never returns sets `waiting` is the model's form of R36 (log 3), and the answers are
those of log 2. -/
def Obligations.Send1SendsOneChecksummedWord : Prop :=
  ∀ s : State,
    (s.fault ≠ .noFault → exec .send1 s = .next s) ∧
    (s.fault = .noFault → s.sess = .closed → exec .send1 s = .next { s with fault := .notOpen }) ∧
    (s.fault = .noFault → s.sess = .opened → ∀ c : BusCall,
      c = .write [s.opc.extractLsb' 8 8, s.opc.extractLsb' 0 8,
        s.p1.extractLsb' 8 8, s.p1.extractLsb' 0 8, crc8Word s.p1] →
      (∀ b, answerTo c s = .ok b → exec .send1 s = .next { logCall c s with res := .ok [] }) ∧
      (∀ n, answerTo c s = .fail n → exec .send1 s = .next { logCall c s with res := .failTransport }) ∧
      (∀ n, answerTo c s = .never n → exec .send1 s = .next { logCall c s with waiting := some c }))

/-- R91: `SEND2`; that a write that never returns sets `waiting` is the model's form of R36 (log 3), and the answers are
those of log 2. -/
def Obligations.Send2SendsTwoChecksummedWords : Prop :=
  ∀ s : State,
    (s.fault ≠ .noFault → exec .send2 s = .next s) ∧
    (s.fault = .noFault → s.sess = .closed → exec .send2 s = .next { s with fault := .notOpen }) ∧
    (s.fault = .noFault → s.sess = .opened → ∀ c : BusCall,
      c = .write [s.opc.extractLsb' 8 8, s.opc.extractLsb' 0 8,
        s.p1.extractLsb' 8 8, s.p1.extractLsb' 0 8, crc8Word s.p1,
        s.p2.extractLsb' 8 8, s.p2.extractLsb' 0 8, crc8Word s.p2] →
      (∀ b, answerTo c s = .ok b → exec .send2 s = .next { logCall c s with res := .ok [] }) ∧
      (∀ n, answerTo c s = .fail n → exec .send2 s = .next { logCall c s with res := .failTransport }) ∧
      (∀ n, answerTo c s = .never n → exec .send2 s = .next { logCall c s with waiting := some c }))

/-- The frame of the sends (R86, R87): with `ps` the parameters the command sends, a next state is the same state
(ignored), the state with `NotOpen` raised, or the state after one `BusWrite` of the whole frame, in which only `RES`,
to no words or Transport, or the waiting call differs. `RES` is never a checksum failure of the send's making. The
outcome with the waiting call set and `RES` kept is the model's form of R36 (log 3). -/
def Obligations.SendsWriteOneFrameAndResOnly : Prop :=
  ∀ (i : Instr) (ps : List Word) (s t : State),
    (i = .send0 ∧ ps = []) ∨ (i = .send1 ∧ ps = [s.p1]) ∨ (i = .send2 ∧ ps = [s.p1, s.p2]) → exec i s = .next t →
    (s.fault ≠ .noFault ∧ t = s) ∨
    (s.fault = .noFault ∧ s.sess = .closed ∧ t = { s with fault := .notOpen }) ∨
    (s.fault = .noFault ∧ s.sess = .opened ∧
      (t = { logCall (.write (frame s.opc ps)) s with res := .ok [] } ∨
       t = { logCall (.write (frame s.opc ps)) s with res := .failTransport } ∨
       t = { logCall (.write (frame s.opc ps)) s with waiting := some (.write (frame s.opc ps)) }))

/-! ## The parser's commands -/

/-- R101: `READ1`; that a read that never returns sets `waiting` is the model's form of R36 (log 3), and the answers are
those of log 2. -/
def Obligations.Read1ReadsOneWord : Prop :=
  ∀ s : State,
    (s.fault ≠ .noFault → exec .read1 s = .next s) ∧
    (s.fault = .noFault → s.sess = .closed → exec .read1 s = .next { s with fault := .notOpen }) ∧
    (s.fault = .noFault → s.sess = .opened →
      (∀ buf, answerTo (.read 3) s = .ok buf → buf.length = 3 →
        exec .read1 s = .next { logCall (.read 3) s with res := parse 1 buf }) ∧
      (∀ buf, answerTo (.read 3) s = .ok buf → buf.length ≠ 3 →
        exec .read1 s = .next { logCall (.read 3) s with res := .failTransport }) ∧
      (∀ n, answerTo (.read 3) s = .fail n →
        exec .read1 s = .next { logCall (.read 3) s with res := .failTransport }) ∧
      (∀ n, answerTo (.read 3) s = .never n →
        exec .read1 s = .next { logCall (.read 3) s with waiting := some (.read 3) }))

/-- R102: `READ2`; that a read that never returns sets `waiting` is the model's form of R36 (log 3), and the answers are
those of log 2. -/
def Obligations.Read2ReadsTwoWords : Prop :=
  ∀ s : State,
    (s.fault ≠ .noFault → exec .read2 s = .next s) ∧
    (s.fault = .noFault → s.sess = .closed → exec .read2 s = .next { s with fault := .notOpen }) ∧
    (s.fault = .noFault → s.sess = .opened →
      (∀ buf, answerTo (.read 6) s = .ok buf → buf.length = 6 →
        exec .read2 s = .next { logCall (.read 6) s with res := parse 2 buf }) ∧
      (∀ buf, answerTo (.read 6) s = .ok buf → buf.length ≠ 6 →
        exec .read2 s = .next { logCall (.read 6) s with res := .failTransport }) ∧
      (∀ n, answerTo (.read 6) s = .fail n →
        exec .read2 s = .next { logCall (.read 6) s with res := .failTransport }) ∧
      (∀ n, answerTo (.read 6) s = .never n →
        exec .read2 s = .next { logCall (.read 6) s with waiting := some (.read 6) }))

/-- R103: `READ3`; that a read that never returns sets `waiting` is the model's form of R36 (log 3), and the answers are
those of log 2. -/
def Obligations.Read3ReadsThreeWords : Prop :=
  ∀ s : State,
    (s.fault ≠ .noFault → exec .read3 s = .next s) ∧
    (s.fault = .noFault → s.sess = .closed → exec .read3 s = .next { s with fault := .notOpen }) ∧
    (s.fault = .noFault → s.sess = .opened →
      (∀ buf, answerTo (.read 9) s = .ok buf → buf.length = 9 →
        exec .read3 s = .next { logCall (.read 9) s with res := parse 3 buf }) ∧
      (∀ buf, answerTo (.read 9) s = .ok buf → buf.length ≠ 9 →
        exec .read3 s = .next { logCall (.read 9) s with res := .failTransport }) ∧
      (∀ n, answerTo (.read 9) s = .fail n →
        exec .read3 s = .next { logCall (.read 9) s with res := .failTransport }) ∧
      (∀ n, answerTo (.read 9) s = .never n →
        exec .read3 s = .next { logCall (.read 9) s with waiting := some (.read 9) }))

/-- The frame of the reads (R96, R39): with `n` the number of words, a next state is the same state (ignored), the
state with `NotOpen` raised, or the state after one `BusRead` of `3n` bytes, in which only `RES` or the waiting call
differs. The outcome with the waiting call set and `RES` kept is the model's form of R36 (log 3). -/
def Obligations.ReadsMakeOneReadAndChangeResOnly : Prop :=
  ∀ (i : Instr) (n : Nat) (s t : State),
    (i = .read1 ∧ n = 1) ∨ (i = .read2 ∧ n = 2) ∨ (i = .read3 ∧ n = 3) → exec i s = .next t →
    (s.fault ≠ .noFault ∧ t = s) ∨
    (s.fault = .noFault ∧ s.sess = .closed ∧ t = { s with fault := .notOpen }) ∨
    (s.fault = .noFault ∧ s.sess = .opened ∧
      (t = { logCall (.read (3 * n)) s with res := t.res } ∨
       t = { logCall (.read (3 * n)) s with waiting := some (.read (3 * n)) }))

/-- R92: an environment that takes the frame of a `SEND2` and answers the next `READ2` with the parameter groups of
that frame makes the `READ2` return the two parameter words. -/
def Obligations.Send2ThenRead2ReturnsParameters : Prop :=
  ∀ (s : State) (b : List Byte) (rest : List BusAnswer), s.fault = .noFault → s.sess = .opened →
    s.answers = .ok b :: .ok ((frame s.opc [s.p1, s.p2]).drop 2) :: rest →
    ∃ t u, exec .send2 s = .next t ∧ t.res = .ok [] ∧ exec .read2 t = .next u ∧ u.res = .ok [s.p1, s.p2] ∧
      u.answers = rest

/-- R106 (b), R77 (e): when a `READ` of `n` words is answered with a response that is valid but for one, two or three
changed bits inside its group `k`, it fails with a checksum error of that group and returns no word. `g` is the valid
group that stood there, as 24 bits. -/
def Obligations.CorruptedResponseNeverAccepted : Prop :=
  ∀ (i : Instr) (gs : List (Byte × Byte × Byte)) (k : Fin 3) (g e : BitVec 24) (s : State) (rest : List BusAnswer),
    (i = .read1 ∧ gs.length = 1) ∨ (i = .read2 ∧ gs.length = 2) ∨ (i = .read3 ∧ gs.length = 3) →
    (∀ x ∈ gs, groupValid x.1 x.2.1 x.2.2 = true) →
    gs[k.val]? = some (g.extractLsb' 16 8, g.extractLsb' 8 8, g.extractLsb' 0 8) →
    1 ≤ (List.range 24).countP (fun j => e.getLsbD j) → (List.range 24).countP (fun j => e.getLsbD j) ≤ 3 →
    s.fault = .noFault → s.sess = .opened →
    s.answers = .ok ((gs.set k.val ((g ^^^ e).extractLsb' 16 8, (g ^^^ e).extractLsb' 8 8,
      (g ^^^ e).extractLsb' 0 8)).flatMap fun x => [x.1, x.2.1, x.2.2]) :: rest →
    ∃ t, exec i s = .next t ∧ t.res = .failChecksum k ∧ ∀ j, wordReg t.res j = none

/-! ## The bus -/

/-- R5, R35, R40: a call on the bus adds one event to the history and uses up one answer, the scripted one if there is
one, else a free value (log 2), each cut to what the call can carry, `shapeAnswer c` (log 4); it changes nothing else. -/
def Obligations.BusCallAddsOneEventAndUsesOneAnswer : Prop :=
  (∀ (c : BusCall) (s : State) (a : BusAnswer) (rest : List BusAnswer), s.answers = a :: rest →
    answerTo c s = shapeAnswer c a ∧
    logCall c s = { s with answers := rest, events := s.events ++ [⟨c, shapeAnswer c a⟩] }) ∧
  (∀ (c : BusCall) (s : State), s.answers = [] →
    answerTo c s = shapeAnswer c (Config.busDraw s.draws) ∧
    logCall c s = { s with
      draws := s.draws + 1, events := s.events ++ [⟨c, shapeAnswer c (Config.busDraw s.draws)⟩] })

/-- R32 (with log 4): a successful write hands over the whole frame; of a failed one, or one that never returns, any
number of bytes from the front may have reached the device, none and all included, and nothing else. -/
def Obligations.FailedWriteDeliversAnyFront : Prop :=
  (∀ (buf b : List Byte), delivered ⟨.write buf, shapeAnswer (.write buf) (.ok b)⟩ = buf) ∧
  (∀ (buf : List Byte) (n : Nat),
    delivered ⟨.write buf, shapeAnswer (.write buf) (.fail n)⟩ = buf.take n ∧
    delivered ⟨.write buf, shapeAnswer (.write buf) (.never n)⟩ = buf.take n)

/-- R5, R39: a step makes at most one bus call, and only by one of the eight commands that call the bus, on a block that
is not faulted. That it makes none while a call is waiting is the model's form of R36 and R41 (log 3). -/
def Obligations.StepMakesAtMostOneBusCall : Prop :=
  ∀ s t : State, step s = .next t → t.events = s.events ∨
    (∃ e v rest, t.events = s.events ++ [e] ∧ s.inputs = .write 0 v :: rest ∧ s.waiting = none ∧
      s.fault = .noFault ∧
      v.setWidth 8 ∈ ([0x01, 0x02, 0x20, 0x21, 0x22, 0x31, 0x32, 0x33] : List Byte))

/-- R36: a command whose bus call never returns changes no state of the block. That the call stands in `waiting` and as
the last event without an answer, and that the block then waits for ever, no host access being taken, until reset, is the
model's form of that (log 3). -/
def Obligations.HungCommandChangesNothingAndWaitsForever : Prop :=
  (∀ (i : Instr) (s t : State), s.waiting = none → exec i s = .next t → t.waiting ≠ none →
    t.acc = s.acc ∧ t.opc = s.opc ∧ t.p1 = s.p1 ∧ t.p2 = s.p2 ∧ t.din = s.din ∧ t.res = s.res ∧ t.sess = s.sess ∧
    t.fault = s.fault ∧ ∃ c n, t.waiting = some c ∧ t.events = s.events ++ [⟨c, .never n⟩]) ∧
  (∀ (s : State) (c : BusCall), s.waiting = some c → (∀ rest, s.inputs ≠ .reset :: rest) → step s = .next s)

/-! ## Faults -/

/-- R147: a step that raises a fault does nothing else: no bus call, no result, no change of any register. It raises
only where no fault was (R148 to R151). That the step takes its input from the list is the model's choice (log 1). -/
def Obligations.RaisingFaultChangesNothingElse : Prop :=
  ∀ s t : State, step s = .next t → t.fault ≠ s.fault → t.fault ≠ .noFault →
    s.fault = .noFault ∧ t = { s with inputs := s.inputs.tail, fault := t.fault }

/-- R148: while faulted, every command, legal or illegal, is ignored. -/
def Obligations.FaultedBlockIgnoresCommands : Prop :=
  ∀ s : State, s.fault ≠ .noFault →
    (∀ i, exec i s = .next s) ∧ (∀ c, issueCode c s = .next s)

/-- R148, R18: a fault stays, with its first value, until reset, and no bus call is made and `ACC`, `RES`, `SESS` do
not change meanwhile. -/
def Obligations.FaultStaysUntilReset : Prop :=
  ∀ s t : State, s.fault ≠ .noFault → (∀ rest, s.inputs ≠ .reset :: rest) → step s = .next t →
    t.fault = s.fault ∧ t.acc = s.acc ∧ t.res = s.res ∧ t.sess = s.sess ∧ t.events = s.events

/-- R149, R60: a byte that is no code raises `IllegalCommand`, also while Closed, and changes nothing else: issued as a
command, and as the step of a host write to `CMD` on a block that is not waiting, which takes the input (log 1). -/
def Obligations.IllegalCodeRaisesIllegalCommand : Prop :=
  (∀ (c : Byte) (s : State), (∀ i, encodeCode i ≠ c) → s.fault = .noFault →
    issueCode c s = .next { s with fault := .illegalCommand }) ∧
  (∀ (v : Word) (s : State) (rest : List Input), s.inputs = .write 0 v :: rest → s.waiting = none →
    (∀ i, encodeCode i ≠ v.setWidth 8) → s.fault = .noFault →
    step s = .next { s with inputs := rest, fault := .illegalCommand })

/-- R150, R151: a send or read while Closed raises `NotOpen`, `OPEN` while Open raises `AlreadyOpen`, and nothing else
changes; `CLOSE` while Closed is no fault. -/
def Obligations.SessionPreconditionsRaiseFaults : Prop :=
  (∀ (i : Instr) (s : State),
    i = .send0 ∨ i = .send1 ∨ i = .send2 ∨ i = .read1 ∨ i = .read2 ∨ i = .read3 →
    s.fault = .noFault → s.sess = .closed → exec i s = .next { s with fault := .notOpen }) ∧
  (∀ s : State, s.fault = .noFault → s.sess = .opened →
    exec .openSession s = .next { s with fault := .alreadyOpen }) ∧
  (∀ s : State, s.fault = .noFault → s.sess = .closed →
    ∃ t, exec .closeSession s = .next t ∧ t.fault = .noFault)

/-! ## Results and operands -/

/-- R15, R167: `RES` changes only by reset and by the eight commands that call the bus, on a block that is not faulted
and does not become so. -/
def Obligations.ResChangesOnlyByBusCommandsAndReset : Prop :=
  ∀ s t : State, step s = .next t → t.res ≠ s.res →
    (∃ rest, s.inputs = .reset :: rest) ∨
    (∃ v rest, s.inputs = .write 0 v :: rest ∧ s.fault = .noFault ∧ t.fault = .noFault ∧
      v.setWidth 8 ∈ ([0x01, 0x02, 0x20, 0x21, 0x22, 0x31, 0x32, 0x33] : List Byte))

/-- R12, R13, R14, R19: no command writes `OPC`, `P1`, `P2` or `DIN`, nor what is to come from outside, nor the host's
reads. -/
def Obligations.CommandsLeaveOperandsAlone : Prop :=
  ∀ (i : Instr) (s t : State), exec i s = .next t →
    t.opc = s.opc ∧ t.p1 = s.p1 ∧ t.p2 = s.p2 ∧ t.din = s.din ∧ t.inputs = s.inputs ∧ t.portReads = s.portReads

/-- The frame of `OPEN` and `CLOSE` (R111, R112): `ACC` and the operands keep their values, and the history is as
before or has one more event, the command's own call. -/
def Obligations.SessionCommandsLeaveAccAndOperands : Prop :=
  ∀ (i : Instr) (c : BusCall) (s t : State),
    (i = .openSession ∧ c = .openBus) ∨ (i = .closeSession ∧ c = .closeBus) → exec i s = .next t →
    t.acc = s.acc ∧ t.opc = s.opc ∧ t.p1 = s.p1 ∧ t.p2 = s.p2 ∧ t.din = s.din ∧ t.inputs = s.inputs ∧
    t.portReads = s.portReads ∧
    ((t.events = s.events ∧ t.answers = s.answers ∧ t.draws = s.draws ∧ t.waiting = s.waiting) ∨
     (t.events = s.events ++ [⟨c, answerTo c s⟩] ∧ t.answers = s.answers.tail))

/-! ## The host port -/

/-- R21, R22: a host write sets the operand register it names, keeping the low bits where the register is narrower, and
is ignored for a read-only or absent register; in every state that is not waiting on the bus, faulted or not. -/
def Obligations.HostWriteSetsOperandOrIsIgnored : Prop :=
  ∀ (s : State) (reg : Nat) (v : Word) (rest : List Input), s.inputs = .write reg v :: rest → s.waiting = none →
    (reg = 4 → step s = .next { s with inputs := rest, opc := v }) ∧
    (reg = 5 → step s = .next { s with inputs := rest, p1 := v }) ∧
    (reg = 6 → step s = .next { s with inputs := rest, p2 := v }) ∧
    (reg = 7 → step s = .next { s with inputs := rest, din := v.setWidth 8 }) ∧
    (reg = 1 ∨ reg = 2 ∨ reg = 3 ∨ 8 ≤ reg → step s = .next { s with inputs := rest })

/-- R21 (with log 7): a host read of a register that holds a value returns it and changes nothing else of the state but
the record of reads. -/
def Obligations.HostReadReturnsHeldValue : Prop :=
  ∀ (s : State) (reg : Nat) (rest : List Input), s.inputs = .read reg :: rest → s.waiting = none →
    ∀ x : PortValue,
    (reg = 1 ∧ x = .byte (stReg s.res)) ∨ (reg = 2 ∧ x = .byte (fltReg s.fault)) ∨
    (reg = 3 ∧ x = .byte (if s.sess = .opened then 0x01 else 0x00)) ∨ (reg = 4 ∧ x = .word s.opc) ∨
    (reg = 5 ∧ x = .word s.p1) ∨ (reg = 6 ∧ x = .word s.p2) ∨ (reg = 7 ∧ x = .byte s.din) ∨
    (reg = 8 ∧ x = .byte s.acc) ∨
    (∃ (k : Nat) (ws : List Word) (w : Word), k < 3 ∧ reg = 9 + k ∧ s.res = .ok ws ∧ ws[k]? = some w ∧ x = .word w) →
    step s = .next { s with inputs := rest, portReads := s.portReads ++ [⟨reg, x⟩] }

/-- R16, R19, R21 (with log 5): a host read of `CMD`, of a word register that holds no value, or of an absent register
returns a free value, a fresh one each time, and changes nothing else but the record of reads. -/
def Obligations.HostReadWithoutValueDraws : Prop :=
  ∀ (s : State) (reg : Nat) (rest : List Input), s.inputs = .read reg :: rest → s.waiting = none →
    ∀ x : PortValue,
    (reg = 0 ∧ x = .byte (Config.byteDraw s.draws)) ∨
    (∃ k : Nat, k < 3 ∧ reg = 9 + k ∧ (∀ ws, s.res = .ok ws → ws.length ≤ k) ∧ x = .word (Config.wordDraw s.draws)) ∨
    (12 ≤ reg ∧ x = Config.portDraw s.draws) →
    step s = .next { s with inputs := rest, draws := s.draws + 1, portReads := s.portReads ++ [⟨reg, x⟩] }

/-- R16: `ST` by result, and the word registers: `Wi` holds word `i` of a success and nothing else does. -/
def Obligations.StatusEncodesResult : Prop :=
  stReg .noResult = 0x00 ∧ (stReg (.ok []) = 0x81) ∧ (∀ a, stReg (.ok [a]) = 0xA1) ∧
  (∀ a b, stReg (.ok [a, b]) = 0xC1) ∧ (∀ a b c, stReg (.ok [a, b, c]) = 0xE1) ∧ stReg .failTransport = 0x82 ∧
  stReg (.failChecksum 0) = 0x84 ∧ stReg (.failChecksum 1) = 0x8C ∧ stReg (.failChecksum 2) = 0x94 ∧
  (∀ r : Result, r.wf = true →
    stReg r ∈ ([0x00, 0x81, 0xA1, 0xC1, 0xE1, 0x82, 0x84, 0x8C, 0x94] : List Byte)) ∧
  (∀ (r : Result) (k : Nat) (w : Word), wordReg r k = some w ↔ ∃ ws, r = .ok ws ∧ ws[k]? = some w)

/-- R18: `FLT` by fault. -/
def Obligations.FltEncodesFault : Prop :=
  fltReg .noFault = 0x00 ∧ fltReg .illegalCommand = 0x01 ∧ fltReg .notOpen = 0x02 ∧ fltReg .alreadyOpen = 0x03

/-! ## Commands and codes -/

/-- R58, R59: a byte decodes to a command exactly when it is that command's code; decoding what the encoder gives is
the command again, with the bytes after it left over; of the 256 bytes 245 are illegal (R60). -/
def Obligations.CodesAndCommandsCorrespond : Prop :=
  (∀ (c : Byte) (i : Instr), decodeCode c = .ok i ↔ c = encodeCode i) ∧
  (∀ (i : Instr) (rest : List Byte), decode (encode i ++ rest) = .ok (i, rest)) ∧
  ((List.range 256).filter fun n => (decodeTableWord 8 n).isNone).length = 245

/-- R58: the byte of each row, written out from the table, decodes to the row's command, and 0x23 and 0x30, three
parameters and zero words, to none (R60). -/
def Obligations.TableBytesDecode : Prop :=
  decodeCode 0b00000001 = .ok .openSession ∧ decodeCode 0b00000010 = .ok .closeSession ∧
  decodeCode 0b00010000 = .ok .crcInit ∧ decodeCode 0b00010001 = .ok .crcByte ∧ decodeCode 0b00010010 = .ok .crc8w ∧
  decodeCode 0b00100000 = .ok .send0 ∧ decodeCode 0b00100001 = .ok .send1 ∧ decodeCode 0b00100010 = .ok .send2 ∧
  decodeCode 0b00110001 = .ok .read1 ∧ decodeCode 0b00110010 = .ok .read2 ∧ decodeCode 0b00110011 = .ok .read3 ∧
  decodeCode 0b00100011 = .error (.illegalCode 0b00100011) ∧ decodeCode 0b00110000 = .error (.illegalCode 0b00110000)

/-- R19, R41 (with log 1): a step whose next input is a host write of a legal code to `CMD`, on a block that is not
waiting on the bus, is that command's meaning, on the state with the input taken. -/
def Obligations.StepRunsDecodedCommand : Prop :=
  ∀ (s : State) (v : Word) (rest : List Input) (i : Instr), s.inputs = .write 0 v :: rest → s.waiting = none →
    decodeCode (v.setWidth 8) = .ok i → step s = exec i { s with inputs := rest }

/-! ## The machine -/

/-- R140, R148, R155: a step always has a next state, and so has every command: no error stops the machine. That a raised
fault (log 9) and a command hung on the bus (log 3) are next states too is the model's choice of form. -/
def Obligations.StepAlwaysHasNextState : Prop :=
  (∀ s : State, ∃ t, step s = .next t) ∧ ∀ (i : Instr) (s : State), ∃ t, exec i s = .next t

/-- The invariant holds after reset (R26). Its parts on the history and the waiting call rest on the model's own reset
values of those fields, empty and none (log 6), and on log 3. -/
def Obligations.ResetMeetsInvariant : Prop := inv State.reset = true

/-- Every step keeps the invariant: results have at most three words (R15), every event is a call the block makes with
an answer that call can have (R32, R33, R39), and a waiting call is the unanswered last event of the history, made in
the session state it needs on a block that is not faulted (R36, R113, R148). The model's own here: the bound of three words
is an invariant and not part of the type (log 11), the shape of an answer is what the call can carry (log 4), and a hung
command is a waiting call that ends the history (log 3). -/
def Obligations.StepKeepsInvariant : Prop :=
  ∀ s t : State, inv s = true → step s = .next t → inv t = true
end

