-- ==== Sys2Proof/Laws/State.lean ====
section
/-! SUPPORT. One lemma per field per update of the state, each true by rfl, so that no later proof unfolds a record
update. -/

namespace Sys2Proof.Machine

/-! ### raiseFault -/

@[simp] theorem raiseFault_acc (f : FaultCode) (s : State) : (raiseFault f s).acc = s.acc := rfl
@[simp] theorem raiseFault_opc (f : FaultCode) (s : State) : (raiseFault f s).opc = s.opc := rfl
@[simp] theorem raiseFault_p1 (f : FaultCode) (s : State) : (raiseFault f s).p1 = s.p1 := rfl
@[simp] theorem raiseFault_p2 (f : FaultCode) (s : State) : (raiseFault f s).p2 = s.p2 := rfl
@[simp] theorem raiseFault_din (f : FaultCode) (s : State) : (raiseFault f s).din = s.din := rfl
@[simp] theorem raiseFault_res (f : FaultCode) (s : State) : (raiseFault f s).res = s.res := rfl
@[simp] theorem raiseFault_sess (f : FaultCode) (s : State) : (raiseFault f s).sess = s.sess := rfl
@[simp] theorem raiseFault_fault (f : FaultCode) (s : State) : (raiseFault f s).fault = f := rfl
@[simp] theorem raiseFault_waiting (f : FaultCode) (s : State) : (raiseFault f s).waiting = s.waiting := rfl
@[simp] theorem raiseFault_inputs (f : FaultCode) (s : State) : (raiseFault f s).inputs = s.inputs := rfl
@[simp] theorem raiseFault_answers (f : FaultCode) (s : State) : (raiseFault f s).answers = s.answers := rfl
@[simp] theorem raiseFault_draws (f : FaultCode) (s : State) : (raiseFault f s).draws = s.draws := rfl
@[simp] theorem raiseFault_events (f : FaultCode) (s : State) : (raiseFault f s).events = s.events := rfl
@[simp] theorem raiseFault_portReads (f : FaultCode) (s : State) : (raiseFault f s).portReads = s.portReads := rfl

/-! ### setRes -/

@[simp] theorem setRes_acc (r : Result) (s : State) : (setRes r s).acc = s.acc := rfl
@[simp] theorem setRes_opc (r : Result) (s : State) : (setRes r s).opc = s.opc := rfl
@[simp] theorem setRes_p1 (r : Result) (s : State) : (setRes r s).p1 = s.p1 := rfl
@[simp] theorem setRes_p2 (r : Result) (s : State) : (setRes r s).p2 = s.p2 := rfl
@[simp] theorem setRes_din (r : Result) (s : State) : (setRes r s).din = s.din := rfl
@[simp] theorem setRes_res (r : Result) (s : State) : (setRes r s).res = r := rfl
@[simp] theorem setRes_sess (r : Result) (s : State) : (setRes r s).sess = s.sess := rfl
@[simp] theorem setRes_fault (r : Result) (s : State) : (setRes r s).fault = s.fault := rfl
@[simp] theorem setRes_waiting (r : Result) (s : State) : (setRes r s).waiting = s.waiting := rfl
@[simp] theorem setRes_inputs (r : Result) (s : State) : (setRes r s).inputs = s.inputs := rfl
@[simp] theorem setRes_answers (r : Result) (s : State) : (setRes r s).answers = s.answers := rfl
@[simp] theorem setRes_draws (r : Result) (s : State) : (setRes r s).draws = s.draws := rfl
@[simp] theorem setRes_events (r : Result) (s : State) : (setRes r s).events = s.events := rfl
@[simp] theorem setRes_portReads (r : Result) (s : State) : (setRes r s).portReads = s.portReads := rfl

/-! ### setAcc -/

@[simp] theorem setAcc_acc (a : Byte) (s : State) : (setAcc a s).acc = a := rfl
@[simp] theorem setAcc_opc (a : Byte) (s : State) : (setAcc a s).opc = s.opc := rfl
@[simp] theorem setAcc_p1 (a : Byte) (s : State) : (setAcc a s).p1 = s.p1 := rfl
@[simp] theorem setAcc_p2 (a : Byte) (s : State) : (setAcc a s).p2 = s.p2 := rfl
@[simp] theorem setAcc_din (a : Byte) (s : State) : (setAcc a s).din = s.din := rfl
@[simp] theorem setAcc_res (a : Byte) (s : State) : (setAcc a s).res = s.res := rfl
@[simp] theorem setAcc_sess (a : Byte) (s : State) : (setAcc a s).sess = s.sess := rfl
@[simp] theorem setAcc_fault (a : Byte) (s : State) : (setAcc a s).fault = s.fault := rfl
@[simp] theorem setAcc_waiting (a : Byte) (s : State) : (setAcc a s).waiting = s.waiting := rfl
@[simp] theorem setAcc_inputs (a : Byte) (s : State) : (setAcc a s).inputs = s.inputs := rfl
@[simp] theorem setAcc_answers (a : Byte) (s : State) : (setAcc a s).answers = s.answers := rfl
@[simp] theorem setAcc_draws (a : Byte) (s : State) : (setAcc a s).draws = s.draws := rfl
@[simp] theorem setAcc_events (a : Byte) (s : State) : (setAcc a s).events = s.events := rfl
@[simp] theorem setAcc_portReads (a : Byte) (s : State) : (setAcc a s).portReads = s.portReads := rfl

/-! ### setSess -/

@[simp] theorem setSess_acc (v : Session) (s : State) : (setSess v s).acc = s.acc := rfl
@[simp] theorem setSess_opc (v : Session) (s : State) : (setSess v s).opc = s.opc := rfl
@[simp] theorem setSess_p1 (v : Session) (s : State) : (setSess v s).p1 = s.p1 := rfl
@[simp] theorem setSess_p2 (v : Session) (s : State) : (setSess v s).p2 = s.p2 := rfl
@[simp] theorem setSess_din (v : Session) (s : State) : (setSess v s).din = s.din := rfl
@[simp] theorem setSess_res (v : Session) (s : State) : (setSess v s).res = s.res := rfl
@[simp] theorem setSess_sess (v : Session) (s : State) : (setSess v s).sess = v := rfl
@[simp] theorem setSess_fault (v : Session) (s : State) : (setSess v s).fault = s.fault := rfl
@[simp] theorem setSess_waiting (v : Session) (s : State) : (setSess v s).waiting = s.waiting := rfl
@[simp] theorem setSess_inputs (v : Session) (s : State) : (setSess v s).inputs = s.inputs := rfl
@[simp] theorem setSess_answers (v : Session) (s : State) : (setSess v s).answers = s.answers := rfl
@[simp] theorem setSess_draws (v : Session) (s : State) : (setSess v s).draws = s.draws := rfl
@[simp] theorem setSess_events (v : Session) (s : State) : (setSess v s).events = s.events := rfl
@[simp] theorem setSess_portReads (v : Session) (s : State) : (setSess v s).portReads = s.portReads := rfl

/-! ### useAnswer -/

@[simp] theorem useAnswer_acc (s : State) : (useAnswer s).acc = s.acc := rfl
@[simp] theorem useAnswer_opc (s : State) : (useAnswer s).opc = s.opc := rfl
@[simp] theorem useAnswer_p1 (s : State) : (useAnswer s).p1 = s.p1 := rfl
@[simp] theorem useAnswer_p2 (s : State) : (useAnswer s).p2 = s.p2 := rfl
@[simp] theorem useAnswer_din (s : State) : (useAnswer s).din = s.din := rfl
@[simp] theorem useAnswer_res (s : State) : (useAnswer s).res = s.res := rfl
@[simp] theorem useAnswer_sess (s : State) : (useAnswer s).sess = s.sess := rfl
@[simp] theorem useAnswer_fault (s : State) : (useAnswer s).fault = s.fault := rfl
@[simp] theorem useAnswer_waiting (s : State) : (useAnswer s).waiting = s.waiting := rfl
@[simp] theorem useAnswer_inputs (s : State) : (useAnswer s).inputs = s.inputs := rfl
@[simp] theorem useAnswer_answers (s : State) : (useAnswer s).answers = s.answers.tail := rfl
@[simp] theorem useAnswer_draws (s : State) : (useAnswer s).draws = if s.answers.isEmpty then s.draws + 1 else s.draws := rfl
@[simp] theorem useAnswer_events (s : State) : (useAnswer s).events = s.events := rfl
@[simp] theorem useAnswer_portReads (s : State) : (useAnswer s).portReads = s.portReads := rfl

/-! ### logCall -/

@[simp] theorem logCall_acc (c : BusCall) (s : State) : (logCall c s).acc = s.acc := rfl
@[simp] theorem logCall_opc (c : BusCall) (s : State) : (logCall c s).opc = s.opc := rfl
@[simp] theorem logCall_p1 (c : BusCall) (s : State) : (logCall c s).p1 = s.p1 := rfl
@[simp] theorem logCall_p2 (c : BusCall) (s : State) : (logCall c s).p2 = s.p2 := rfl
@[simp] theorem logCall_din (c : BusCall) (s : State) : (logCall c s).din = s.din := rfl
@[simp] theorem logCall_res (c : BusCall) (s : State) : (logCall c s).res = s.res := rfl
@[simp] theorem logCall_sess (c : BusCall) (s : State) : (logCall c s).sess = s.sess := rfl
@[simp] theorem logCall_fault (c : BusCall) (s : State) : (logCall c s).fault = s.fault := rfl
@[simp] theorem logCall_waiting (c : BusCall) (s : State) : (logCall c s).waiting = s.waiting := rfl
@[simp] theorem logCall_inputs (c : BusCall) (s : State) : (logCall c s).inputs = s.inputs := rfl
@[simp] theorem logCall_answers (c : BusCall) (s : State) : (logCall c s).answers = s.answers.tail := rfl
@[simp] theorem logCall_draws (c : BusCall) (s : State) : (logCall c s).draws = if s.answers.isEmpty then s.draws + 1 else s.draws := rfl
@[simp] theorem logCall_events (c : BusCall) (s : State) : (logCall c s).events = s.events ++ [⟨c, answerTo c s⟩] := rfl
@[simp] theorem logCall_portReads (c : BusCall) (s : State) : (logCall c s).portReads = s.portReads := rfl

/-! ### awaitReturn -/

@[simp] theorem awaitReturn_acc (c : BusCall) (s : State) : (awaitReturn c s).acc = s.acc := rfl
@[simp] theorem awaitReturn_opc (c : BusCall) (s : State) : (awaitReturn c s).opc = s.opc := rfl
@[simp] theorem awaitReturn_p1 (c : BusCall) (s : State) : (awaitReturn c s).p1 = s.p1 := rfl
@[simp] theorem awaitReturn_p2 (c : BusCall) (s : State) : (awaitReturn c s).p2 = s.p2 := rfl
@[simp] theorem awaitReturn_din (c : BusCall) (s : State) : (awaitReturn c s).din = s.din := rfl
@[simp] theorem awaitReturn_res (c : BusCall) (s : State) : (awaitReturn c s).res = s.res := rfl
@[simp] theorem awaitReturn_sess (c : BusCall) (s : State) : (awaitReturn c s).sess = s.sess := rfl
@[simp] theorem awaitReturn_fault (c : BusCall) (s : State) : (awaitReturn c s).fault = s.fault := rfl
@[simp] theorem awaitReturn_waiting (c : BusCall) (s : State) : (awaitReturn c s).waiting = some c := rfl
@[simp] theorem awaitReturn_inputs (c : BusCall) (s : State) : (awaitReturn c s).inputs = s.inputs := rfl
@[simp] theorem awaitReturn_answers (c : BusCall) (s : State) : (awaitReturn c s).answers = s.answers := rfl
@[simp] theorem awaitReturn_draws (c : BusCall) (s : State) : (awaitReturn c s).draws = s.draws := rfl
@[simp] theorem awaitReturn_events (c : BusCall) (s : State) : (awaitReturn c s).events = s.events := rfl
@[simp] theorem awaitReturn_portReads (c : BusCall) (s : State) : (awaitReturn c s).portReads = s.portReads := rfl

/-! ### takeInput -/

@[simp] theorem takeInput_acc (s : State) : (takeInput s).acc = s.acc := rfl
@[simp] theorem takeInput_opc (s : State) : (takeInput s).opc = s.opc := rfl
@[simp] theorem takeInput_p1 (s : State) : (takeInput s).p1 = s.p1 := rfl
@[simp] theorem takeInput_p2 (s : State) : (takeInput s).p2 = s.p2 := rfl
@[simp] theorem takeInput_din (s : State) : (takeInput s).din = s.din := rfl
@[simp] theorem takeInput_res (s : State) : (takeInput s).res = s.res := rfl
@[simp] theorem takeInput_sess (s : State) : (takeInput s).sess = s.sess := rfl
@[simp] theorem takeInput_fault (s : State) : (takeInput s).fault = s.fault := rfl
@[simp] theorem takeInput_waiting (s : State) : (takeInput s).waiting = s.waiting := rfl
@[simp] theorem takeInput_inputs (s : State) : (takeInput s).inputs = s.inputs.tail := rfl
@[simp] theorem takeInput_answers (s : State) : (takeInput s).answers = s.answers := rfl
@[simp] theorem takeInput_draws (s : State) : (takeInput s).draws = s.draws := rfl
@[simp] theorem takeInput_events (s : State) : (takeInput s).events = s.events := rfl
@[simp] theorem takeInput_portReads (s : State) : (takeInput s).portReads = s.portReads := rfl

/-! ### resetBlock -/

@[simp] theorem resetBlock_acc (s : State) : (resetBlock s).acc = 0xFF := rfl
@[simp] theorem resetBlock_opc (s : State) : (resetBlock s).opc = 0 := rfl
@[simp] theorem resetBlock_p1 (s : State) : (resetBlock s).p1 = 0 := rfl
@[simp] theorem resetBlock_p2 (s : State) : (resetBlock s).p2 = 0 := rfl
@[simp] theorem resetBlock_din (s : State) : (resetBlock s).din = 0 := rfl
@[simp] theorem resetBlock_res (s : State) : (resetBlock s).res = .noResult := rfl
@[simp] theorem resetBlock_sess (s : State) : (resetBlock s).sess = .closed := rfl
@[simp] theorem resetBlock_fault (s : State) : (resetBlock s).fault = .noFault := rfl
@[simp] theorem resetBlock_waiting (s : State) : (resetBlock s).waiting = none := rfl
@[simp] theorem resetBlock_inputs (s : State) : (resetBlock s).inputs = s.inputs := rfl
@[simp] theorem resetBlock_answers (s : State) : (resetBlock s).answers = s.answers := rfl
@[simp] theorem resetBlock_draws (s : State) : (resetBlock s).draws = s.draws := rfl
@[simp] theorem resetBlock_events (s : State) : (resetBlock s).events = s.events := rfl
@[simp] theorem resetBlock_portReads (s : State) : (resetBlock s).portReads = s.portReads := rfl

/-! ### placeCommand -/

@[simp] theorem placeCommand_acc (bs : List Byte) (s : State) : (placeCommand bs s).acc = s.acc := rfl
@[simp] theorem placeCommand_opc (bs : List Byte) (s : State) : (placeCommand bs s).opc = s.opc := rfl
@[simp] theorem placeCommand_p1 (bs : List Byte) (s : State) : (placeCommand bs s).p1 = s.p1 := rfl
@[simp] theorem placeCommand_p2 (bs : List Byte) (s : State) : (placeCommand bs s).p2 = s.p2 := rfl
@[simp] theorem placeCommand_din (bs : List Byte) (s : State) : (placeCommand bs s).din = s.din := rfl
@[simp] theorem placeCommand_res (bs : List Byte) (s : State) : (placeCommand bs s).res = s.res := rfl
@[simp] theorem placeCommand_sess (bs : List Byte) (s : State) : (placeCommand bs s).sess = s.sess := rfl
@[simp] theorem placeCommand_fault (bs : List Byte) (s : State) : (placeCommand bs s).fault = s.fault := rfl
@[simp] theorem placeCommand_waiting (bs : List Byte) (s : State) : (placeCommand bs s).waiting = none := rfl
@[simp] theorem placeCommand_inputs (bs : List Byte) (s : State) : (placeCommand bs s).inputs = .write 0 ((bs.headD 0).setWidth 16) :: s.inputs := rfl
@[simp] theorem placeCommand_answers (bs : List Byte) (s : State) : (placeCommand bs s).answers = s.answers := rfl
@[simp] theorem placeCommand_draws (bs : List Byte) (s : State) : (placeCommand bs s).draws = s.draws := rfl
@[simp] theorem placeCommand_events (bs : List Byte) (s : State) : (placeCommand bs s).events = s.events := rfl
@[simp] theorem placeCommand_portReads (bs : List Byte) (s : State) : (placeCommand bs s).portReads = s.portReads := rfl

end Sys2Proof.Machine
end

