-- ==== Sys2Proof/Laws/Ops.lean ====
section
/-! SUPPORT. What each shared operation can do, said once; later proofs cite these and do not unfold the operations. -/

namespace Sys2Proof.Machine

/-! ### The guards -/

theorem unlessFaulted_of_noFault {b : State → State} {s : State} (h : s.fault = .noFault) :
    unlessFaulted b s = b s := by simp [unlessFaulted, h]

theorem unlessFaulted_of_faulted {b : State → State} {s : State} (h : s.fault ≠ .noFault) :
    unlessFaulted b s = s := by simp [unlessFaulted, h]

theorem unlessFaulted_cases (b : State → State) (s : State) :
    (s.fault = .noFault ∧ unlessFaulted b s = b s) ∨ (s.fault ≠ .noFault ∧ unlessFaulted b s = s) := by
  by_cases h : s.fault = .noFault
  · exact .inl ⟨h, unlessFaulted_of_noFault h⟩
  · exact .inr ⟨h, unlessFaulted_of_faulted h⟩

theorem whenOpen_of_opened {b : State → State} {s : State} (h : s.sess = .opened) : whenOpen b s = b s := by
  simp [whenOpen, h]

theorem whenOpen_of_closed {b : State → State} {s : State} (h : s.sess = .closed) :
    whenOpen b s = raiseFault .notOpen s := by simp [whenOpen, h]

theorem whenOpen_cases (b : State → State) (s : State) :
    (s.sess = .opened ∧ whenOpen b s = b s) ∨ (s.sess = .closed ∧ whenOpen b s = raiseFault .notOpen s) := by
  cases h : s.sess
  · exact .inr ⟨rfl, whenOpen_of_closed h⟩
  · exact .inl ⟨rfl, whenOpen_of_opened h⟩

/-! ### The environment's answers -/

theorem nextAnswer_scripted {s : State} {a : BusAnswer} {rest : List BusAnswer} (h : s.answers = a :: rest) :
    nextAnswer s = a := by simp [nextAnswer, h]

theorem nextAnswer_drawn {s : State} (h : s.answers = []) : nextAnswer s = Config.busDraw s.draws := by
  simp [nextAnswer, h]

theorem answerTo_scripted {s : State} {a : BusAnswer} {rest : List BusAnswer} (c : BusCall)
    (h : s.answers = a :: rest) : answerTo c s = shapeAnswer c a := by
  simp [answerTo, nextAnswer_scripted h]

/-- Shaping an answer twice is shaping it once. -/
theorem shapeAnswer_idem (c : BusCall) (a : BusAnswer) : shapeAnswer c (shapeAnswer c a) = shapeAnswer c a := by
  cases c <;> cases a <;> simp [shapeAnswer]

/-- The answer to a call is one the call can carry. -/
theorem shapeAnswer_answerTo (c : BusCall) (s : State) : shapeAnswer c (answerTo c s) = answerTo c s :=
  shapeAnswer_idem c (nextAnswer s)

/-- Everything one bus call can do. -/
theorem busCall_cases (c : BusCall) (onOk : List Byte → State → State) (onFail : State → State) (s : State) :
    (∃ buf, answerTo c s = .ok buf ∧ busCall c onOk onFail s = onOk buf (logCall c s)) ∨
    (∃ n, answerTo c s = .fail n ∧ busCall c onOk onFail s = onFail (logCall c s)) ∨
    (∃ n, answerTo c s = .never n ∧ busCall c onOk onFail s = awaitReturn c (logCall c s)) := by
  unfold busCall
  cases h : answerTo c s with
  | ok buf => exact .inl ⟨buf, rfl, rfl⟩
  | fail n => exact .inr (.inl ⟨n, rfl, rfl⟩)
  | never n => exact .inr (.inr ⟨n, rfl, rfl⟩)

/-! ### The commands -/

/-- Everything a send can do. -/
theorem sendFrame_cases (ps : State → List Word) (s : State) :
    (s.fault ≠ .noFault ∧ sendFrame ps s = s) ∨
    (s.fault = .noFault ∧ s.sess = .closed ∧ sendFrame ps s = raiseFault .notOpen s) ∨
    (s.fault = .noFault ∧ s.sess = .opened ∧
      ((∃ buf, answerTo (.write (frame s.opc (ps s))) s = .ok buf ∧
          sendFrame ps s = setRes (.ok []) (logCall (.write (frame s.opc (ps s))) s)) ∨
       (∃ n, answerTo (.write (frame s.opc (ps s))) s = .fail n ∧
          sendFrame ps s = setRes .failTransport (logCall (.write (frame s.opc (ps s))) s)) ∨
       (∃ n, answerTo (.write (frame s.opc (ps s))) s = .never n ∧
          sendFrame ps s = awaitReturn (.write (frame s.opc (ps s)))
            (logCall (.write (frame s.opc (ps s))) s)))) := by
  unfold sendFrame
  rcases unlessFaulted_cases _ s with ⟨hf, e⟩ | ⟨hf, e⟩
  · rw [e]
    rcases whenOpen_cases _ s with ⟨ho, e'⟩ | ⟨hc, e'⟩
    · refine .inr (.inr ⟨hf, ho, ?_⟩)
      rw [e']
      exact busCall_cases _ _ _ s
    · exact .inr (.inl ⟨hf, hc, e'⟩)
  · exact .inl ⟨hf, e⟩

/-- Everything a read can do. -/
theorem readWords_cases (n : Nat) (s : State) :
    (s.fault ≠ .noFault ∧ readWords n s = s) ∨
    (s.fault = .noFault ∧ s.sess = .closed ∧ readWords n s = raiseFault .notOpen s) ∨
    (s.fault = .noFault ∧ s.sess = .opened ∧
      ((∃ buf, answerTo (.read (groupBytes * n)) s = .ok buf ∧
          readWords n s = setRes (readResult n buf) (logCall (.read (groupBytes * n)) s)) ∨
       (∃ k, answerTo (.read (groupBytes * n)) s = .fail k ∧
          readWords n s = setRes .failTransport (logCall (.read (groupBytes * n)) s)) ∨
       (∃ k, answerTo (.read (groupBytes * n)) s = .never k ∧
          readWords n s = awaitReturn (.read (groupBytes * n)) (logCall (.read (groupBytes * n)) s)))) := by
  unfold readWords
  rcases unlessFaulted_cases _ s with ⟨hf, e⟩ | ⟨hf, e⟩
  · rw [e]
    rcases whenOpen_cases _ s with ⟨ho, e'⟩ | ⟨hc, e'⟩
    · refine .inr (.inr ⟨hf, ho, ?_⟩)
      rw [e']
      exact busCall_cases _ _ _ s
    · exact .inr (.inl ⟨hf, hc, e'⟩)
  · exact .inl ⟨hf, e⟩

/-- Everything `OPEN` can do on a block that is not faulted. -/
theorem acquireBus_cases (s : State) :
    (s.sess = .opened ∧ acquireBus s = raiseFault .alreadyOpen s) ∨
    (s.sess = .closed ∧
      ((∃ buf, answerTo .openBus s = .ok buf ∧
          acquireBus s = setRes (.ok []) (setSess .opened (logCall .openBus s))) ∨
       (∃ n, answerTo .openBus s = .fail n ∧ acquireBus s = setRes .failTransport (logCall .openBus s)) ∨
       (∃ n, answerTo .openBus s = .never n ∧ acquireBus s = awaitReturn .openBus (logCall .openBus s)))) := by
  unfold acquireBus
  cases h : s.sess
  · exact .inr ⟨rfl, busCall_cases _ _ _ s⟩
  · exact .inl ⟨rfl, rfl⟩

/-- Everything `CLOSE` can do on a block that is not faulted. -/
theorem releaseBus_cases (s : State) :
    (s.sess = .closed ∧ releaseBus s = setRes (.ok []) s) ∨
    (s.sess = .opened ∧
      ((∃ buf, answerTo .closeBus s = .ok buf ∧
          releaseBus s = setRes (.ok []) (setSess .closed (logCall .closeBus s))) ∨
       (∃ n, answerTo .closeBus s = .fail n ∧
          releaseBus s = setRes .failTransport (setSess .closed (logCall .closeBus s))) ∨
       (∃ n, answerTo .closeBus s = .never n ∧
          releaseBus s = awaitReturn .closeBus (logCall .closeBus s)))) := by
  unfold releaseBus
  cases h : s.sess
  · exact .inl ⟨rfl, rfl⟩
  · exact .inr ⟨rfl, busCall_cases _ _ _ s⟩

end Sys2Proof.Machine
end

