-- ==== Sys2Proof/Laws/Step.lean ====
section
/-! SUPPORT. What one step can do, by the next input, and what a host access can do. -/

namespace Sys2Proof.Machine

/-- Everything a step can do. -/
theorem step_cases (s : State) :
    (s.inputs = [] ∧ step s = .next s) ∨
    (∃ rest, s.inputs = .reset :: rest ∧ step s = .next (resetBlock (takeInput s))) ∨
    (s.inputs ≠ [] ∧ (∀ rest, s.inputs ≠ .reset :: rest) ∧ s.waiting.isSome = true ∧ step s = .next s) ∨
    (∃ reg v rest, s.inputs = .write reg v :: rest ∧ s.waiting = none ∧ step s = hostWrite reg v (takeInput s)) ∨
    (∃ reg rest, s.inputs = .read reg :: rest ∧ s.waiting = none ∧
      step s = .next (hostRead reg (takeInput s))) := by
  unfold step respond
  split
  · exact .inl ⟨by assumption, rfl⟩
  · rename_i rest h
    exact .inr (.inl ⟨rest, h, rfl⟩)
  · rename_i reg v rest h
    cases hw : s.waiting with
    | some c => exact .inr (.inr (.inl ⟨by simp [h], by simp [h], rfl, rfl⟩))
    | none => exact .inr (.inr (.inr (.inl ⟨reg, v, rest, h, rfl, rfl⟩)))
  · rename_i reg rest h
    cases hw : s.waiting with
    | some c => exact .inr (.inr (.inl ⟨by simp [h], by simp [h], rfl, rfl⟩))
    | none => exact .inr (.inr (.inr (.inr ⟨reg, rest, h, rfl, rfl⟩)))

/-- Everything a host write can do: run a command, raise `IllegalCommand`, or set a register. -/
theorem hostWrite_cases (reg : Nat) (v : Word) (s : State) :
    (reg = 0 ∧ ∃ i, decodeCode (narrow v) = .ok i ∧ hostWrite reg v s = exec i s) ∨
    (reg = 0 ∧ (∃ e, decodeCode (narrow v) = .error e) ∧
      hostWrite reg v s = .next (unlessFaulted (raiseFault .illegalCommand) s)) ∨
    (∃ r, portReg reg = some r ∧ r ≠ .cmd ∧ hostWrite reg v s = .next (writeReg r v s)) ∨
    (portReg reg = none ∧ hostWrite reg v s = .next s) := by
  unfold hostWrite
  cases hp : portReg reg with
  | none => exact .inr (.inr (.inr ⟨rfl, rfl⟩))
  | some r =>
    by_cases hr : r = .cmd
    · subst hr
      have h0 : reg = 0 := by
        unfold portReg at hp
        split at hp <;> first | rfl | simp_all
      unfold issueCode
      cases hd : decodeCode (narrow v) with
      | ok i => exact .inl ⟨h0, i, rfl, rfl⟩
      | error e => exact .inr (.inl ⟨h0, ⟨e, rfl⟩, rfl⟩)
    · refine .inr (.inr (.inl ⟨r, rfl, hr, ?_⟩))
      cases r <;> first | rfl | exact absurd rfl hr

/-- A host read adds one entry to the reads and, where the register holds no value, takes one draw. -/
theorem hostRead_cases (reg : Nat) (s : State) :
    (∃ v, portHolds reg s = some v ∧ hostRead reg s = { s with portReads := s.portReads ++ [⟨reg, v⟩] }) ∨
    (portHolds reg s = none ∧
      hostRead reg s =
        { s with portReads := s.portReads ++ [⟨reg, drawnValue reg s.draws⟩], draws := s.draws + 1 }) := by
  unfold hostRead
  cases h : portHolds reg s with
  | some v => exact .inl ⟨v, rfl, rfl⟩
  | none => exact .inr ⟨rfl, rfl⟩

end Sys2Proof.Machine
end

