-- ==== Sys2Proof/Laws/Exec.lean ====
section
/-! SUPPORT. Everything a command can do, said once for all eleven: later proofs about a step or a command split on
these cases and do not unfold the meanings. -/

namespace Sys2Proof.Machine

/-- The call on the bus a command makes when it makes one (R89 to R91, R101 to R103, R111, R112). -/
def callOf : Instr → State → Option BusCall
  | .openSession, _ => some .openBus
  | .closeSession, _ => some .closeBus
  | .crcInit, _ => none
  | .crcByte, _ => none
  | .crc8w, _ => none
  | .send0, s => some (.write (frame s.opc []))
  | .send1, s => some (.write (frame s.opc [s.p1]))
  | .send2, s => some (.write (frame s.opc [s.p1, s.p2]))
  | .read1, _ => some (.read (groupBytes * 1))
  | .read2, _ => some (.read (groupBytes * 2))
  | .read3, _ => some (.read (groupBytes * 3))

/-- The session state after a command whose bus call returned, `won` when it succeeded (R111, R112, R114). -/
def sessionAfter (i : Instr) (won : Bool) (old : Session) : Session :=
  match i with
  | .openSession => if won then .opened else old
  | .closeSession => .closed
  | .crcInit => old
  | .crcByte => old
  | .crc8w => old
  | .send0 => old
  | .send1 => old
  | .send2 => old
  | .read1 => old
  | .read2 => old
  | .read3 => old

/-- The results a command whose bus call returned can leave. -/
def ResultOf (r : Result) : Prop :=
  r = .ok [] ∨ r = .failTransport ∨ ∃ n buf, 1 ≤ n ∧ n ≤ 3 ∧ r = readResult n buf

/-- What a command whose bus call `c` was made leaves: it waits, or the call returned and `RES` and the session are
written from its answer. -/
def AfterCall (i : Instr) (c : BusCall) (s t : State) : Prop :=
  (∃ n, answerTo c s = .never n ∧ t = awaitReturn c (logCall c s)) ∨
  (∃ buf r, answerTo c s = .ok buf ∧ ResultOf r ∧ t = setRes r (setSess (sessionAfter i true s.sess) (logCall c s))) ∨
  (∃ n, answerTo c s = .fail n ∧
    t = setRes .failTransport (setSess (sessionAfter i false s.sess) (logCall c s)))

/-- What a command on a block that is not faulted leaves. -/
def Effect (i : Instr) (s t : State) : Prop :=
  (callOf i s = none ∧ ∃ a, t = setAcc a s) ∨
  (∃ f, f ≠ .noFault ∧ t = raiseFault f s) ∨
  (i = .closeSession ∧ s.sess = .closed ∧ t = setRes (.ok []) s) ∨
  (∃ c, callOf i s = some c ∧ s.sess = callSession c ∧ AfterCall i c s t)

/-- Writing the session state it has leaves a state as it is. -/
theorem setSess_logCall_self (c : BusCall) (s : State) : setSess s.sess (logCall c s) = logCall c s := rfl

theorem sendFrame_effect {i : Instr} {ps : State → List Word} {s t : State}
    (hc : callOf i s = some (.write (frame s.opc (ps s)))) (hi : ∀ b, sessionAfter i b s.sess = s.sess)
    (h : sendFrame ps s = t) : (s.fault ≠ .noFault ∧ t = s) ∨ (s.fault = .noFault ∧ Effect i s t) := by
  subst h
  rcases sendFrame_cases ps s with ⟨hf, e⟩ | ⟨hf, _, e⟩ | ⟨hf, ho, ⟨buf, ha, e⟩ | ⟨n, ha, e⟩ | ⟨n, ha, e⟩⟩ <;> rw [e]
  · exact .inl ⟨hf, rfl⟩
  · exact .inr ⟨hf, .inr (.inl ⟨_, by decide, rfl⟩)⟩
  · exact .inr ⟨hf, .inr (.inr (.inr ⟨_, hc, ho, .inr (.inl ⟨buf, _, ha, .inl rfl, by rw [hi, setSess_logCall_self]⟩)⟩))⟩
  · exact .inr ⟨hf, .inr (.inr (.inr ⟨_, hc, ho, .inr (.inr ⟨n, ha, by rw [hi, setSess_logCall_self]⟩)⟩))⟩
  · exact .inr ⟨hf, .inr (.inr (.inr ⟨_, hc, ho, .inl ⟨n, ha, rfl⟩⟩))⟩

theorem readWords_effect {i : Instr} {n : Nat} {s t : State} (h1 : 1 ≤ n) (h3 : n ≤ 3)
    (hc : callOf i s = some (.read (groupBytes * n))) (hi : ∀ b, sessionAfter i b s.sess = s.sess)
    (h : readWords n s = t) : (s.fault ≠ .noFault ∧ t = s) ∨ (s.fault = .noFault ∧ Effect i s t) := by
  subst h
  rcases readWords_cases n s with ⟨hf, e⟩ | ⟨hf, _, e⟩ | ⟨hf, ho, ⟨buf, ha, e⟩ | ⟨k, ha, e⟩ | ⟨k, ha, e⟩⟩ <;> rw [e]
  · exact .inl ⟨hf, rfl⟩
  · exact .inr ⟨hf, .inr (.inl ⟨_, by decide, rfl⟩)⟩
  · exact .inr ⟨hf, .inr (.inr (.inr ⟨_, hc, ho,
      .inr (.inl ⟨buf, _, ha, .inr (.inr ⟨n, buf, h1, h3, rfl⟩), by rw [hi, setSess_logCall_self]⟩)⟩))⟩
  · exact .inr ⟨hf, .inr (.inr (.inr ⟨_, hc, ho, .inr (.inr ⟨k, ha, by rw [hi, setSess_logCall_self]⟩)⟩))⟩
  · exact .inr ⟨hf, .inr (.inr (.inr ⟨_, hc, ho, .inl ⟨k, ha, rfl⟩⟩))⟩

theorem crc_effect {i : Instr} {a : State → Byte} {s t : State} (hc : callOf i s = none)
    (h : unlessFaulted (fun u => setAcc (a u) u) s = t) :
    (s.fault ≠ .noFault ∧ t = s) ∨ (s.fault = .noFault ∧ Effect i s t) := by
  subst h
  rcases unlessFaulted_cases (fun u => setAcc (a u) u) s with ⟨hf, e⟩ | ⟨hf, e⟩ <;> rw [e]
  · exact .inr ⟨hf, .inl ⟨hc, a s, rfl⟩⟩
  · exact .inl ⟨hf, rfl⟩

theorem acquireBus_effect {s t : State} (h : unlessFaulted acquireBus s = t) :
    (s.fault ≠ .noFault ∧ t = s) ∨ (s.fault = .noFault ∧ Effect .openSession s t) := by
  subst h
  rcases unlessFaulted_cases acquireBus s with ⟨hf, e⟩ | ⟨hf, e⟩ <;> rw [e]
  · refine .inr ⟨hf, ?_⟩
    rcases acquireBus_cases s with ⟨_, e'⟩ | ⟨hc, ⟨buf, ha, e'⟩ | ⟨n, ha, e'⟩ | ⟨n, ha, e'⟩⟩ <;> rw [e']
    · exact .inr (.inl ⟨_, by decide, rfl⟩)
    · exact .inr (.inr (.inr ⟨_, rfl, hc, .inr (.inl ⟨buf, _, ha, .inl rfl, rfl⟩)⟩))
    · exact .inr (.inr (.inr ⟨_, rfl, hc, .inr (.inr ⟨n, ha, rfl⟩)⟩))
    · exact .inr (.inr (.inr ⟨_, rfl, hc, .inl ⟨n, ha, rfl⟩⟩))
  · exact .inl ⟨hf, rfl⟩

theorem releaseBus_effect {s t : State} (h : unlessFaulted releaseBus s = t) :
    (s.fault ≠ .noFault ∧ t = s) ∨ (s.fault = .noFault ∧ Effect .closeSession s t) := by
  subst h
  rcases unlessFaulted_cases releaseBus s with ⟨hf, e⟩ | ⟨hf, e⟩ <;> rw [e]
  · refine .inr ⟨hf, ?_⟩
    rcases releaseBus_cases s with ⟨hc, e'⟩ | ⟨ho, ⟨buf, ha, e'⟩ | ⟨n, ha, e'⟩ | ⟨n, ha, e'⟩⟩ <;> rw [e']
    · exact .inr (.inr (.inl ⟨rfl, hc, rfl⟩))
    · exact .inr (.inr (.inr ⟨_, rfl, ho, .inr (.inl ⟨buf, _, ha, .inl rfl, rfl⟩)⟩))
    · exact .inr (.inr (.inr ⟨_, rfl, ho, .inr (.inr ⟨n, ha, rfl⟩)⟩))
    · exact .inr (.inr (.inr ⟨_, rfl, ho, .inl ⟨n, ha, rfl⟩⟩))
  · exact .inl ⟨hf, rfl⟩

/-- Everything a command can do: nothing while faulted, else one of the effects. -/
theorem exec_effect {i : Instr} {s t : State} (h : exec i s = .next t) :
    (s.fault ≠ .noFault ∧ t = s) ∨ (s.fault = .noFault ∧ Effect i s t) := by
  cases i with
  | openSession => exact acquireBus_effect (Host.Outcome.next.inj h)
  | closeSession => exact releaseBus_effect (Host.Outcome.next.inj h)
  | crcInit => exact crc_effect (a := fun _ => crcStart) rfl (Host.Outcome.next.inj h)
  | crcByte => exact crc_effect (a := fun u => crc8Byte u.acc u.din) rfl (Host.Outcome.next.inj h)
  | crc8w => exact crc_effect (a := fun u => crc8Word u.p1) rfl (Host.Outcome.next.inj h)
  | send0 => exact sendFrame_effect (ps := fun _ => []) rfl (fun _ => rfl) (Host.Outcome.next.inj h)
  | send1 => exact sendFrame_effect (ps := fun t => [t.p1]) rfl (fun _ => rfl) (Host.Outcome.next.inj h)
  | send2 => exact sendFrame_effect (ps := fun t => [t.p1, t.p2]) rfl (fun _ => rfl) (Host.Outcome.next.inj h)
  | read1 => exact readWords_effect (by decide) (by decide) rfl (fun _ => rfl) (Host.Outcome.next.inj h)
  | read2 => exact readWords_effect (by decide) (by decide) rfl (fun _ => rfl) (Host.Outcome.next.inj h)
  | read3 => exact readWords_effect (by decide) (by decide) rfl (fun _ => rfl) (Host.Outcome.next.inj h)

/-- Everything issuing a byte can do: run the command it is the code of, or raise `IllegalCommand`. -/
theorem issueCode_cases (c : Byte) (s : State) :
    (∃ i, decodeCode c = .ok i ∧ issueCode c s = exec i s) ∨
    ((∃ e, decodeCode c = .error e) ∧ issueCode c s = .next (unlessFaulted (raiseFault .illegalCommand) s)) := by
  unfold issueCode
  cases h : decodeCode c with
  | ok i => exact .inl ⟨i, rfl, rfl⟩
  | error e => exact .inr ⟨⟨e, rfl⟩, rfl⟩

end Sys2Proof.Machine
end

