-- ==== Sys2Proof/Machine/Assembler.lean ====
section
/-! DEFINITION. How a host program is written down (spec/30_encoding.md R62 to R64): commands as host writes, and the
pseudo-instructions with their expansions. -/

namespace Sys2Proof.Machine

/-- The host write that issues a command: register `CMD`, the command's code (R63). -/
def commandInput (i : Instr) : Input := .write (portNumber .cmd) ((encodeCode i).setWidth 16)

/-- The host write of a value to a named register (R63). -/
def writeInput (r : PortReg) (v : Word) : Input := .write (portNumber r) v

/-- The pseudo-instructions (R64). -/
inductive Pseudo where
  /-- `SEND opc`, `SEND opc, p`, `SEND opc, p, q`. -/
  | send (opc : Word) (ps : List Word)
  /-- `READ n`. -/
  | read (n : Nat)
  /-- `CRC b0, b1, ..., bm`. -/
  | crc (bs : List Byte)
  /-- `WAIT t`: no host action on the block. -/
  | wait (ms : Nat)
  deriving DecidableEq, Repr

/-- What the assembler accepts: at most two parameters, and one to three words (R64). Of `CRC` the spec gives the form
with at least one byte and does not say whether a list of none is refused: accepting it is the model's choice
(log 17 [DESIGN CHOICE]). -/
def Pseudo.wellFormed : Pseudo → Bool
  | .send _ ps => decide (ps.length ≤ maxParams)
  | .read n => decide (1 ≤ n) && decide (n ≤ maxWords)
  | .crc _ => true
  | .wait _ => true

/-- The expansion of a pseudo-instruction; what the assembler refuses has none (R64). `CRC` of no byte expands to
`CRCINIT` alone, the model's choice (log 17 [DESIGN CHOICE]). -/
def expand : Pseudo → Option (List Input)
  | .send opc [] => some [writeInput .opc opc, commandInput .send0]
  | .send opc [p] => some [writeInput .opc opc, writeInput .p1 p, commandInput .send1]
  | .send opc [p, q] => some [writeInput .opc opc, writeInput .p1 p, writeInput .p2 q, commandInput .send2]
  | .send _ (_ :: _ :: _ :: _) => none
  | .read 0 => none
  | .read 1 => some [commandInput .read1]
  | .read 2 => some [commandInput .read2]
  | .read 3 => some [commandInput .read3]
  | .read (_ + 4) => none
  | .crc bs =>
    some (commandInput .crcInit :: bs.flatMap fun b => [writeInput .din (b.setWidth 16), commandInput .crcByte])
  | .wait _ => some []

end Sys2Proof.Machine
end

