-- ==== Sys2Proof/Machine/HostOps.lean ====
section
/-! DEFINITION. The host's operations on the sensor (spec/44_host_sequences.md R120 to R137), software outside the block
(R3 (c)): which commands each operation issues, what the host waits, where it stops, and how it judges the result. Nothing
here is state or behaviour of the block, and no step reads it (log 15 [DESIGN CHOICE]). -/

namespace Sys2Proof.Machine

/-- The eight operations of the table (R122). -/
inductive HostOp where
  | initMeasurements
  | readMeasurements
  | getBaseline
  | setBaseline (a b : Word)
  | setHumidity (temperature humidity : Rat)
  | selfTest
  | serialNumber
  | softReset
  deriving DecidableEq, Repr

/-- The three error kinds the host tells apart (R140, R133). -/
inductive ErrorKind where
  | transport
  | checksum
  | protocol
  deriving DecidableEq, Repr

/-- What an operation yields on success (R122). -/
inductive HostPayload where
  | nothing
  | pair (a b : Word)
  | text (cs : List Char)
  deriving DecidableEq, Repr

/-- The result of an operation: success with a payload or failure with a kind for diagnostics (R133). -/
inductive HostResult where
  | success (p : HostPayload)
  | failure (k : ErrorKind)
  deriving DecidableEq, Repr

/-! ### The humidity word -/

/-- The inputs the humidity encoding accepts, bounds included (R132). -/
def humidityAccepts (temperature humidity : Rat) : Bool :=
  decide (-100 ≤ temperature) && decide (temperature ≤ 100) && decide (0 ≤ humidity) && decide (humidity ≤ 100)

/-- `r` is the scaled absolute humidity rounded to an integer, on a tie either neighbour: the formula of R132 over the
real numbers (N11 leaves the tie rule open). -/
def RoundedHumidity (temperature humidity : Rat) (r : Int) : Prop :=
  |(r : ℝ) - 216.7 * (((humidity : ℝ) / 100) * 6.112 * Real.exp (17.62 * (temperature : ℝ) / (243.12 + (temperature : ℝ)))) /
    (273.15 + (temperature : ℝ)) * 256| ≤ 1 / 2

/-- The host's humidity encoding, a parameter of the host model: a function of the two inputs that on accepted ones lies
within one unit of the formula's rounding, wrapped to 16 bits, and is exact at 25 °C and 50 % (R132, U8). -/
structure HumidityEncoder where
  /-- The word. -/
  word : Rat → Rat → Word
  /-- Within one unit of the formula (U8), `mod 65536` (R132). -/
  nearFormula : ∀ t h, humidityAccepts t h = true →
    ∃ r k : Int, RoundedHumidity t h r ∧ |k - r| ≤ 1 ∧ word t h = BitVec.ofInt 16 k
  /-- Exact for `T = 25`, `RH = 50` (R132, U8). -/
  exactAt25And50 : word 25 50 = 0x0B7C

/-- The humidity word, or rejection before any bus write (R127, R132). -/
def humidityWord? (enc : HumidityEncoder) (temperature humidity : Rat) : Option Word :=
  if humidityAccepts temperature humidity then some (enc.word temperature humidity) else none

/-! ### The table -/

/-- Whether the host rejects the operation's inputs; only the humidity compensation can (R127, R132). -/
def HostOp.rejected : HostOp → Bool
  | .initMeasurements => false
  | .readMeasurements => false
  | .getBaseline => false
  | .setBaseline _ _ => false
  | .setHumidity t h => !humidityAccepts t h
  | .selfTest => false
  | .serialNumber => false
  | .softReset => false

/-- The parameter words an operation sends; none where its inputs are rejected (R122 to R129). -/
def HostOp.params (enc : HumidityEncoder) : HostOp → Option (List Word)
  | .initMeasurements => some []
  | .readMeasurements => some []
  | .getBaseline => some []
  | .setBaseline a b => some [a, b]
  | .setHumidity t h => (humidityWord? enc t h).map fun w => [w]
  | .selfTest => some []
  | .serialNumber => some []
  | .softReset => some []

/-- The settling delay in milliseconds after the send (R122, R170). -/
def HostOp.delayMs : HostOp → Nat
  | .initMeasurements => 10
  | .readMeasurements => 12
  | .getBaseline => 10
  | .setBaseline _ _ => 10
  | .setHumidity _ _ => 10
  | .selfTest => 220
  | .serialNumber => 10
  | .softReset => 0

/-- How many words the operation reads (R122). -/
def HostOp.words : HostOp → Nat
  | .initMeasurements => 0
  | .readMeasurements => 2
  | .getBaseline => 2
  | .setBaseline _ _ => 0
  | .setHumidity _ _ => 0
  | .selfTest => 1
  | .serialNumber => 3
  | .softReset => 0

/-- Whether the operation goes through the block: all but the soft reset (R120, R130). -/
def HostOp.usesBlock : HostOp → Bool
  | .initMeasurements => true
  | .readMeasurements => true
  | .getBaseline => true
  | .setBaseline _ _ => true
  | .setHumidity _ _ => true
  | .selfTest => true
  | .serialNumber => true
  | .softReset => false

/-! ### The result -/

/-- A hexadecimal digit, lowercase (R129). -/
def hexDigit (n : Nat) : Char := (['0', '1', '2', '3', '4', '5', '6', '7', '8', '9', 'a', 'b', 'c', 'd', 'e', 'f']).getD n '0'

/-- A word as four lowercase hexadecimal digits (R129). -/
def hexWord (w : Word) : List Char :=
  [hexDigit (w.toNat / 4096 % 16), hexDigit (w.toNat / 256 % 16), hexDigit (w.toNat / 16 % 16), hexDigit (w.toNat % 16)]

/-- The serial number string, twelve characters (R129). -/
def serialText (a b c : Word) : List Char := hexWord a ++ hexWord b ++ hexWord c

/-- The self-test sentinel (R128). -/
def selfTestWord : Word := 0xD400

/-- The host's interpretation of the words of a success, by operation (R123 to R129, R133). A number of words the
operation does not expect is a failure of kind Protocol: the kind is the model's choice (log 15 [DESIGN CHOICE]). -/
def HostOp.judge (op : HostOp) (ws : List Word) : HostResult :=
  match op, ws with
  | .initMeasurements, [] => .success .nothing
  | .readMeasurements, [a, b] => .success (.pair a b)
  | .getBaseline, [a, b] => .success (.pair a b)
  | .setBaseline _ _, [] => .success .nothing
  | .setHumidity _ _, [] => .success .nothing
  | .selfTest, [w] => if w = selfTestWord then .success .nothing else .failure .protocol
  | .serialNumber, [a, b, c] => .success (.text (serialText a b c))
  | .softReset, [] => .success .nothing
  | _, _ => .failure .protocol

/-- The host's verdict on `RES` after the last command of an operation that goes through the block; rejected inputs are a
Protocol failure whatever `RES` holds (R121, R127, R133). `RES` still `None` is a failure (R123);
the spec names no kind for it, and that it is Protocol is the model's choice (R133, R143, log 15 [DESIGN CHOICE]). -/
def HostOp.verdict (op : HostOp) (r : Result) : HostResult :=
  if op.rejected then .failure .protocol
  else match r with
    | .ok ws => op.judge ws
    | .failTransport => .failure .transport
    | .failChecksum _ => .failure .checksum
    | .noResult => .failure .protocol

/-! ### The soft reset -/

/-- The soft reset's write, past the block: general-call address and byte (R34, R130). -/
def softResetWrite : Byte × Byte := (0x00, 0x06)

/-- Whether the soft reset reports success, by whether its write succeeded: success or failure only; what it reports
after a successful write is a parameter (R130, U6). -/
def softResetSucceeds (writeOk : Bool) : Bool := writeOk && Config.softResetReportsSuccess

/-- The result of the soft reset: a failed write is a Transport failure (R140); the spec names no kind for a failure
reported after a successful write, and that it is Protocol is the model's choice (R130, U6, log 15 [DESIGN CHOICE]). -/
def softResetResult (writeOk : Bool) : HostResult :=
  if softResetSucceeds writeOk then .success .nothing
  else if writeOk then .failure .protocol
  else .failure .transport

/-! ### The sequence -/

/-- One action of the host in an operation (R121). -/
inductive HostAction where
  /-- An access to the block, a command among them. -/
  | access (x : Input)
  /-- A write to an alternate device address, past the block (R34). -/
  | alternateWrite (address : Byte) (buf : List Byte)
  /-- `WAIT`: no action on the block (R64). -/
  | wait (ms : Nat)
  /-- If `RES` is a failure, stop with failure. -/
  | check
  deriving DecidableEq, Repr

/-- The send of an operation with sensor opcode `opc`, as host accesses; none where the inputs are rejected, the empty
list for the soft reset, which issues no block command (R121, R127, R130). -/
def HostOp.sendPart (enc : HumidityEncoder) (opc : Word) (op : HostOp) : Option (List Input) :=
  if op.usesBlock then (op.params enc).bind fun ps => expand (.send opc ps) else some []

/-- The read of an operation, after the delay: one `READ n` and the check of its result, or nothing (R121). -/
def HostOp.readPart (op : HostOp) : List HostAction :=
  if op.words = 0 then [] else ((expand (.read op.words)).getD []).map .access ++ [.check]

/-- What the host does for an operation, in order: send, check, wait, read, check; for the soft reset its one write, with
no command, delay or read; none where the inputs are rejected (R121, R127, R130). The check stands before the wait, so
the host does not sleep after a failed send: the spec leaves that open (R121, N10), and it is the model's choice
(log 15 [DESIGN CHOICE]). -/
def HostOp.actions (enc : HumidityEncoder) (opc : Word) (op : HostOp) : Option (List HostAction) :=
  if op.usesBlock then
    (op.sendPart enc opc).map fun xs => xs.map .access ++ [.check, .wait op.delayMs] ++ op.readPart
  else some [.alternateWrite softResetWrite.1 [softResetWrite.2]]

/-- One write past the block, with what the environment answered (R34). -/
structure AlternateWrite where
  address : Byte
  buf : List Byte
  answer : BusAnswer
  deriving DecidableEq, Repr

/-- What the host acts on: the block, and beside it the host's own record of its writes past the block, oldest first. -/
structure HostState where
  block : State
  alternate : List AlternateWrite
  deriving DecidableEq, Repr

/-- The block after one access of the host, the next thing that arrives from outside: one step of the machine, which
always has a next state (R41, log 9 [DEDUCED]). -/
def hostAct (x : Input) (s : State) : State :=
  match step { s with inputs := x :: s.inputs } with
  | .next t => t
  | .fault _ => s
  | .refused _ => s

/-- The access made on the block of a host state. -/
def HostState.act (x : Input) (h : HostState) : HostState := { h with block := hostAct x h.block }

/-- A write past the block, recorded with its answer, the environment's next one, which is used up. It is no call of the
block's, so no state of the block changes and the block's event history stays (R27, R34, log 15 [DESIGN CHOICE]). -/
def HostState.logAlternate (address : Byte) (buf : List Byte) (h : HostState) : HostState where
  block := useAnswer h.block
  alternate := h.alternate ++ [⟨address, buf, answerTo (.write buf) h.block⟩]

/-- How a run stands between two actions of the host. -/
inductive Standing where
  /-- The host can go on. -/
  | ready
  /-- The run has gone wrong: the block is faulted (R148). -/
  | wentWrong
  /-- A command never completes: the host is blocked in its write to `CMD` (R36). -/
  | blocked
  deriving DecidableEq, Repr

/-- How a run stands, by the block (R36, R148). -/
def standing (s : State) : Standing :=
  if hung s then .blocked else if goneWrong s then .wentWrong else .ready

/-- How a sequence of host actions ends. -/
inductive HostRun where
  /-- All actions are done. -/
  | finished (h : HostState)
  /-- A check or a write past the block found a failure: the host stops and does nothing of the rest (R121). -/
  | stopped (h : HostState)
  /-- The block is faulted: gone wrong, never a normal end (R148); the run is followed no further. -/
  | wentWrong (h : HostState)
  /-- A bus call never returns: neither does the host (R36). -/
  | blocked (h : HostState)
  deriving DecidableEq, Repr

/-- The host carries out actions one at a time, while the run is in good standing (R41, R148). It goes on from a check
only where `RES` is a success; that it stops on `None`, as on a failure, is the model's choice (R121,
log 15 [DESIGN CHOICE]). -/
def runActions : List HostAction → HostState → HostRun
  | [], h =>
    match standing h.block with
    | .ready => .finished h
    | .wentWrong => .wentWrong h
    | .blocked => .blocked h
  | a :: as, h =>
    match standing h.block with
    | .wentWrong => .wentWrong h
    | .blocked => .blocked h
    | .ready =>
      match a with
      | .access x => runActions as (h.act x)
      | .alternateWrite address buf =>
        match answerTo (.write buf) h.block with
        | .ok _ => runActions as (h.logAlternate address buf)
        | .fail _ => .stopped (h.logAlternate address buf)
        | .never _ => .blocked (h.logAlternate address buf)
      | .wait _ => runActions as h
      | .check =>
        match h.block.res with
        | .ok _ => runActions as h
        | .failTransport => .stopped h
        | .failChecksum _ => .stopped h
        | .noResult => .stopped h

/-! ### An operation, whole -/

/-- What a call of an operation comes to. -/
inductive HostOutcome where
  /-- A result, with the block as it then stands (R133). -/
  | done (r : HostResult) (h : HostState)
  /-- Called while Closed, a programming error: nothing is issued (R131 (a)). -/
  | notOpen (h : HostState)
  /-- The run has reached a fault: no result, gone wrong (R148). -/
  | wentWrong (h : HostState)
  /-- Never a result (R36). -/
  | blocked (h : HostState)
  deriving DecidableEq, Repr

/-- The result where a sequence ends: the verdict on `RES`, or, of the soft reset, by whether its write succeeded, which
is whether all was done (R121, R130, R133). -/
def HostOp.resultOf (op : HostOp) (allDone : Bool) (r : Result) : HostResult :=
  if op.usesBlock then op.verdict r else softResetResult allDone

/-- What an operation comes to, by how its sequence ended. -/
def HostOp.outcome (op : HostOp) : HostRun → HostOutcome
  | .finished h => .done (op.resultOf true h.block.res) h
  | .stopped h => .done (op.resultOf false h.block.res) h
  | .wentWrong h => .wentWrong h
  | .blocked h => .blocked h

/-- The sequence of an operation, run on an open session; rejected inputs fail with kind Protocol and nothing is issued,
whatever the session (R127), and while Closed nothing is issued either (R131 (a)). -/
def HostOp.performReady (enc : HumidityEncoder) (opc : Word) (op : HostOp) (h : HostState) : HostOutcome :=
  match op.actions enc opc with
  | none => .done (.failure .protocol) h
  | some as =>
    match h.block.sess with
    | .closed => .notOpen h
    | .opened => op.outcome (runActions as h)

/-- An operation of the host with sensor opcode `opc`, on a session that the host has opened, the soft reset's too
(R120 to R131, R136). A blocked host calls nothing (R36), and a run on a faulted block has gone wrong (R148). -/
def HostOp.perform (enc : HumidityEncoder) (opc : Word) (op : HostOp) (h : HostState) : HostOutcome :=
  match standing h.block with
  | .ready => op.performReady enc opc h
  | .wentWrong => .wentWrong h
  | .blocked => .blocked h

/-- `OPEN` and the check of its result: the host does not go on to a send while Closed (R131 (a), R111). -/
def openActions : List HostAction := [.access (commandInput .openSession), .check]

/-- The host opens the session first where it is Closed, then carries out the operation; an `OPEN` that fails is the
operation's failure (R131 (a)). Inputs that are rejected are so before any command, `OPEN` among them (R127). -/
def HostOp.openAndPerform (enc : HumidityEncoder) (opc : Word) (op : HostOp) (h : HostState) : HostOutcome :=
  if op.rejected then op.perform enc opc h
  else match h.block.sess with
    | .opened => op.perform enc opc h
    | .closed =>
      match runActions openActions h with
      | .finished t => op.perform enc opc t
      | .stopped t => .done (op.verdict t.block.res) t
      | .wentWrong t => .wentWrong t
      | .blocked t => .blocked t

end Sys2Proof.Machine
end

