-- ==== Sys2Proof/Laws/HostOps.lean ====
section
/-! SUPPORT. What the host's sequences can do: one access is one step, a check that
meets a failure ends the sequence, rejected inputs and a Closed session issue nothing, a run that ends normally is not
faulted; and a humidity encoding as R132 asks exists. -/

namespace Sys2Proof.Machine

/-! ### The humidity encoding -/

/-- The square of the exponential of half the exponent at 25 °C, between bounds narrow enough for the rounding. -/
theorem exp_at_25_bounds :
    (5.17016 : ℝ) ≤ Real.exp (17.62 * 25 / (243.12 + 25)) ∧ Real.exp (17.62 * 25 / (243.12 + 25)) ≤ 5.1707 := by
  have h := Real.exp_bound (x := 17.62 * 25 / (243.12 + 25) / 2) (by rw [abs_le]; constructor <;> norm_num)
    (n := 8) (by norm_num)
  have e : Real.exp (17.62 * 25 / (243.12 + 25)) = Real.exp (17.62 * 25 / (243.12 + 25) / 2) ^ 2 := by
    rw [← Real.exp_nat_mul]; congr 1; norm_num
  rw [e]
  generalize Real.exp (17.62 * 25 / (243.12 + 25) / 2) = y at *
  rw [abs_of_nonneg (a := (17.62 * 25 / (243.12 + 25) / 2 : ℝ)) (by norm_num)] at h
  norm_num [Finset.sum_range_succ, Nat.factorial] at h
  obtain ⟨h1, h2⟩ := abs_le.mp h
  have hl : (2.2738 : ℝ) ≤ y := by linarith
  have hu : y ≤ (2.2739 : ℝ) := by linarith
  constructor <;> nlinarith

/-- At 25 °C and 50 % the formula rounds to 2940, the 0x0B7C that R132 gives. -/
theorem roundedHumidity_at_25_50 : RoundedHumidity 25 50 2940 := by
  obtain ⟨hl, hu⟩ := exp_at_25_bounds
  unfold RoundedHumidity
  push_cast
  generalize Real.exp (17.62 * 25 / (243.12 + 25)) = z at *
  have e : (216.7 : ℝ) * (50 / 100 * 6.112 * z) / (273.15 + 25) * 256 = (423830528 / 745375) * z := by ring
  rw [e, abs_le]
  constructor <;> linarith

theorem roundedHumidity_exists (t h : Rat) : ∃ r, RoundedHumidity t h r :=
  ⟨round _, by unfold RoundedHumidity; rw [abs_sub_comm]; exact abs_sub_round _⟩

/-- The law on the encoding can be met, so statements about every encoding are not empty (R132, U8). -/
theorem humidityEncoder_exists : Nonempty HumidityEncoder := by
  choose f hf using roundedHumidity_exists
  refine ⟨⟨fun t h => if t = 25 ∧ h = 50 then 0x0B7C else BitVec.ofInt 16 (f t h), fun t h _ => ?_, by simp⟩⟩
  by_cases hc : t = 25 ∧ h = 50
  · obtain ⟨rfl, rfl⟩ := hc
    exact ⟨2940, 2940, roundedHumidity_at_25_50, by norm_num, by rw [if_pos ⟨rfl, rfl⟩]; decide⟩
  · exact ⟨f t h, f t h, hf t h, by simp, if_neg hc⟩

/-! ### One access -/

/-- An access of the host is one step of the machine, with the access as the next thing from outside. -/
theorem hostAct_of_step {x : Input} {s t : State} (h : step { s with inputs := x :: s.inputs } = .next t) :
    hostAct x s = t := by
  simp [hostAct, h]

/-! ### Rejected inputs and verdicts -/

/-- The sequence is missing exactly where the inputs are rejected (R127). -/
theorem actions_eq_none_iff (enc : HumidityEncoder) (opc : Word) (op : HostOp) :
    op.actions enc opc = none ↔ op.rejected = true := by
  cases op with
  | setHumidity t h => cases ha : humidityAccepts t h <;>
      simp [HostOp.actions, HostOp.sendPart, HostOp.usesBlock, HostOp.params, HostOp.rejected, humidityWord?, expand, ha]
  | _ => simp [HostOp.actions, HostOp.sendPart, HostOp.usesBlock, HostOp.params, HostOp.rejected, expand]

theorem verdict_of_rejected {op : HostOp} (h : op.rejected = true) (r : Result) :
    op.verdict r = .failure .protocol := by simp [HostOp.verdict, h]

/-- A result that is no success is judged a failure (R121, R133). -/
theorem verdict_of_not_ok (op : HostOp) {r : Result} (hr : ∀ ws, r ≠ .ok ws) : ∃ k, op.verdict r = .failure k := by
  unfold HostOp.verdict
  split
  · exact ⟨_, rfl⟩
  · cases r with
    | ok ws => exact absurd rfl (hr ws)
    | noResult => exact ⟨_, rfl⟩
    | failTransport => exact ⟨_, rfl⟩
    | failChecksum g => exact ⟨_, rfl⟩

/-! ### Standing -/

@[simp] theorem act_block (x : Input) (h : HostState) : (h.act x).block = hostAct x h.block := rfl
@[simp] theorem act_alternate (x : Input) (h : HostState) : (h.act x).alternate = h.alternate := rfl
@[simp] theorem logAlternate_block (a : Byte) (buf : List Byte) (h : HostState) :
    (h.logAlternate a buf).block = useAnswer h.block := rfl
@[simp] theorem logAlternate_alternate (a : Byte) (buf : List Byte) (h : HostState) :
    (h.logAlternate a buf).alternate = h.alternate ++ [⟨a, buf, answerTo (.write buf) h.block⟩] := rfl

@[simp] theorem standing_useAnswer (s : State) : standing (useAnswer s) = standing s := rfl

/-- A run can go on exactly where no command is waiting and no fault is raised. -/
theorem standing_eq_ready_iff (s : State) : standing s = .ready ↔ s.waiting = none ∧ s.fault = .noFault := by
  cases hw : s.waiting <;> cases hf : s.fault <;> simp [standing, hung, goneWrong, hw, hf]

/-! ### The sequence -/

/-- R121: where a check meets a failure, nothing after it is done, a read included. -/
theorem runActions_stops {h : HostState} (hs : standing h.block = .ready) (hr : ∀ ws, h.block.res ≠ .ok ws)
    (as : List HostAction) : runActions (.check :: as) h = .stopped h := by
  cases e : h.block.res <;> simp_all [runActions]

theorem runActions_goes_on {h : HostState} {ws : List Word} (hs : standing h.block = .ready)
    (hr : h.block.res = .ok ws) (as : List HostAction) : runActions (.check :: as) h = runActions as h := by
  simp [runActions, hs, hr]

theorem runActions_access {h : HostState} (hs : standing h.block = .ready) (x : Input) (as : List HostAction) :
    runActions (.access x :: as) h = runActions as (h.act x) := by
  simp [runActions, hs]

/-- R36: a blocked host does nothing more. -/
theorem runActions_blocked {h : HostState} (hs : standing h.block = .blocked) (as : List HostAction) :
    runActions as h = .blocked h := by
  cases as <;> simp [runActions, hs]

/-- R148: a run on a faulted block has gone wrong, whatever was to come. -/
theorem runActions_wentWrong {h : HostState} (hs : standing h.block = .wentWrong) (as : List HostAction) :
    runActions as h = .wentWrong h := by
  cases as <;> simp [runActions, hs]

/-- R148: a sequence that finishes or stops leaves a block that is neither faulted nor hung. -/
theorem runActions_ready {as : List HostAction} {h t : HostState}
    (e : runActions as h = .finished t ∨ runActions as h = .stopped t) : standing t.block = .ready := by
  induction as generalizing h with
  | nil => cases hs : standing h.block <;> simp_all [runActions]
  | cons a as ih =>
    cases hs : standing h.block with
    | wentWrong => simp [runActions_wentWrong hs] at e
    | blocked => simp [runActions_blocked hs] at e
    | ready =>
      cases a with
      | access x => exact ih (by simpa [runActions, hs] using e)
      | wait ms => exact ih (by simpa [runActions, hs] using e)
      | check =>
        cases hr : h.block.res with
        | ok ws => exact ih (by simpa [runActions, hs, hr] using e)
        | _ => simp [runActions, hs, hr] at e; exact e ▸ hs
      | alternateWrite address buf =>
        cases ha : answerTo (.write buf) h.block with
        | ok b => exact ih (by simpa [runActions, hs, ha] using e)
        | fail n => simp [runActions, hs, ha] at e; subst e; exact hs
        | never n => simp [runActions, hs, ha] at e

/-! ### An operation, whole -/

/-- R127: rejected inputs are a Protocol failure, the session open or closed, and the block is as before: no command, no
bus call. -/
theorem perform_rejected (enc : HumidityEncoder) (opc : Word) {op : HostOp} {h : HostState}
    (hs : standing h.block = .ready) (hr : op.rejected = true) :
    op.perform enc opc h = .done (.failure .protocol) h := by
  simp [HostOp.perform, hs, HostOp.performReady, (actions_eq_none_iff enc opc op).mpr hr]

/-- R131 (a): while Closed no operation issues anything. -/
theorem perform_closed (enc : HumidityEncoder) (opc : Word) {op : HostOp} {h : HostState}
    (hs : standing h.block = .ready) (hr : op.rejected = false) (hc : h.block.sess = .closed) :
    op.perform enc opc h = .notOpen h := by
  cases ha : op.actions enc opc with
  | none => simp [(actions_eq_none_iff enc opc op).mp ha] at hr
  | some as => simp [HostOp.perform, hs, HostOp.performReady, ha, hc]

/-- R148: an operation that ends with a result leaves a block that is neither faulted nor hung. -/
theorem perform_done_ready {enc : HumidityEncoder} {opc : Word} {op : HostOp} {h t : HostState} {r : HostResult}
    (e : op.perform enc opc h = .done r t) : standing t.block = .ready := by
  cases hs : standing h.block with
  | wentWrong => simp [HostOp.perform, hs] at e
  | blocked => simp [HostOp.perform, hs] at e
  | ready =>
    cases ha : op.actions enc opc with
    | none => simp [HostOp.perform, hs, HostOp.performReady, ha] at e; exact e.2 ▸ hs
    | some as =>
      cases hc : h.block.sess with
      | closed => simp [HostOp.perform, hs, HostOp.performReady, ha, hc] at e
      | opened =>
        cases hr : runActions as h with
        | finished u =>
          simp [HostOp.perform, hs, HostOp.performReady, ha, hc, hr, HostOp.outcome] at e
          exact e.2 ▸ runActions_ready (.inl hr)
        | stopped u =>
          simp [HostOp.perform, hs, HostOp.performReady, ha, hc, hr, HostOp.outcome] at e
          exact e.2 ▸ runActions_ready (.inr hr)
        | wentWrong u => simp [HostOp.perform, hs, HostOp.performReady, ha, hc, hr, HostOp.outcome] at e
        | blocked u => simp [HostOp.perform, hs, HostOp.performReady, ha, hc, hr, HostOp.outcome] at e

/-- R27, R34, R130: all that the soft reset does on an open session: it writes 0x06 to the address 0x00, once, and the
block is as before but for the answer used up; the result is by the answer. -/
theorem perform_softReset (enc : HumidityEncoder) (opc : Word) {h : HostState} (hs : standing h.block = .ready)
    (ho : h.block.sess = .opened) :
    HostOp.perform enc opc .softReset h =
      match answerTo (.write [0x06#8]) h.block with
      | .ok _ => .done (softResetResult true) (h.logAlternate 0x00#8 [0x06#8])
      | .fail _ => .done (softResetResult false) (h.logAlternate 0x00#8 [0x06#8])
      | .never _ => .blocked (h.logAlternate 0x00#8 [0x06#8]) := by
  cases ha : answerTo (.write [0x06#8]) h.block <;>
    simp [HostOp.perform, HostOp.performReady, HostOp.actions, HostOp.usesBlock, softResetWrite, HostOp.outcome,
      HostOp.resultOf, runActions, hs, ho, ha]

/-- A failed write is a failure of the soft reset (R130). -/
theorem softResetResult_of_failed_write : softResetResult false = .failure .transport := rfl

end Sys2Proof.Machine
end

