-- ==== Sys2Proof/Laws/PerInstr.lean ====
section
/-! SUPPORT. A law of the command codes, one lemma per command (spec/30_encoding.md R58): a code is one byte, and the
low two bits of a SEND or READ code are its number of parameters or words. -/

namespace Sys2Proof.Laws

/-- How many parameter words a SEND sends. -/
def sendCount : Instr → Option Nat
  | .openSession => none
  | .closeSession => none
  | .crcInit => none
  | .crcByte => none
  | .crc8w => none
  | .send0 => some 0
  | .send1 => some 1
  | .send2 => some 2
  | .read1 => none
  | .read2 => none
  | .read3 => none

/-- How many words a READ reads. -/
def readCount : Instr → Option Nat
  | .openSession => none
  | .closeSession => none
  | .crcInit => none
  | .crcByte => none
  | .crc8w => none
  | .send0 => none
  | .send1 => none
  | .send2 => none
  | .read1 => some 1
  | .read2 => some 2
  | .read3 => some 3

namespace CodeBits

/-- The command is well formed, its encoding is one byte, and the low two bits say `k` or `n` (R58). -/
def Statement (i : Instr) : Prop :=
  i.wellFormed = true ∧ (encode i).length = 1 ∧
  (∀ k, sendCount i = some k → (encodeCode i).toNat = 0x20 + k ∧ (encodeCode i).toNat % 4 = k) ∧
  (∀ n, readCount i = some n → (encodeCode i).toNat = 0x30 + n ∧ (encodeCode i).toNat % 4 = n)

theorem openSession : Statement .openSession := by simp [Statement, sendCount, readCount, encode, Instr.wellFormed]
theorem closeSession : Statement .closeSession := by simp [Statement, sendCount, readCount, encode, Instr.wellFormed]
theorem crcInit : Statement .crcInit := by simp [Statement, sendCount, readCount, encode, Instr.wellFormed]
theorem crcByte : Statement .crcByte := by simp [Statement, sendCount, readCount, encode, Instr.wellFormed]
theorem crc8w : Statement .crc8w := by simp [Statement, sendCount, readCount, encode, Instr.wellFormed]
theorem send0 : Statement .send0 := by simp [Statement, sendCount, readCount, encode, encodeCode, Instr.wellFormed]
theorem send1 : Statement .send1 := by simp [Statement, sendCount, readCount, encode, encodeCode, Instr.wellFormed]
theorem send2 : Statement .send2 := by simp [Statement, sendCount, readCount, encode, encodeCode, Instr.wellFormed]
theorem read1 : Statement .read1 := by simp [Statement, sendCount, readCount, encode, encodeCode, Instr.wellFormed]
theorem read2 : Statement .read2 := by simp [Statement, sendCount, readCount, encode, encodeCode, Instr.wellFormed]
theorem read3 : Statement .read3 := by simp [Statement, sendCount, readCount, encode, encodeCode, Instr.wellFormed]

end CodeBits

end Sys2Proof.Laws
end

