-- ==== Sys2Proof/Tests/Slice0.lean ====
section
/-! SUPPORT. Small checks of the model: decoding, well-formedness, one or two checks per command with expected results
taken from spec/95_test_vectors.md, and for every statement with hypotheses a concrete state and operands that meet
them. -/

namespace Sys2Proof.Tests

open Sys2Proof.Machine

/-! One theorem at a time: many waiting at once each hold a thread. -/
set_option Elab.async false

/-! ### Helpers -/

/-- The next state of an outcome. -/
def nextOf (o : Outcome) : Option State :=
  match o with
  | .next s => some s
  | .fault _ => none
  | .refused _ => none

/-- An open session with the environment's answers scripted. -/
def openS (answers : List BusAnswer) : State := { State.reset with sess := .opened, answers := answers }

/-- A closed session with the environment's answers scripted. -/
def closedS (answers : List BusAnswer) : State := { State.reset with answers := answers }

/-- A faulted block. -/
def faultedS : State := { State.reset with fault := .notOpen, acc := 0x12 }

/-- A block hung on the `BusRead` of a `READ1`, with what is still to come from outside. -/
def hungS (inputs : List Input) : State :=
  { openS [] with waiting := some (.read 3), events := [⟨.read 3, .never 0⟩], inputs := inputs }

/-- A state with the next inputs set. -/
def withInputs (s : State) (inputs : List Input) : State := { s with inputs := inputs }

/-- A host that has made no write past the block. -/
def hostS (s : State) : HostState := ⟨s, []⟩

/-- What a command leaves of `ACC`. -/
def accAfter (i : Instr) (s : State) : Option Byte := (nextOf (exec i s)).map (·.acc)

/-- What a command leaves of `RES` and the history of calls. -/
def resAfter (i : Instr) (s : State) : Option (Result × List BusCall) :=
  (nextOf (exec i s)).map fun t => (t.res, t.events.map (·.call))

/-- What a command leaves of `SESS`, `FAULT` and `RES`. -/
def sessAfter (i : Instr) (s : State) : Option (Session × FaultCode × Result) :=
  (nextOf (exec i s)).map fun t => (t.sess, t.fault, t.res)

/-! ### Decoding: each command's byte written out from R58 -/

theorem test_decode_open : decode [0b00000001] = .ok (.openSession, []) := by rfl
theorem test_decode_close : decode [0b00000010] = .ok (.closeSession, []) := by rfl
theorem test_decode_crcinit : decode [0b00010000] = .ok (.crcInit, []) := by rfl
theorem test_decode_crcbyte : decode [0b00010001] = .ok (.crcByte, []) := by rfl
theorem test_decode_crc8w : decode [0b00010010] = .ok (.crc8w, []) := by rfl
theorem test_decode_send0 : decode [0b00100000] = .ok (.send0, []) := by rfl
theorem test_decode_send1 : decode [0b00100001] = .ok (.send1, []) := by rfl
theorem test_decode_send2 : decode [0b00100010] = .ok (.send2, []) := by rfl
theorem test_decode_read1 : decode [0b00110001] = .ok (.read1, []) := by rfl
theorem test_decode_read2 : decode [0b00110010] = .ok (.read2, []) := by rfl
theorem test_decode_read3 : decode [0b00110011] = .ok (.read3, []) := by rfl

/-- R60: three parameters, zero words, and the ends of the range are no commands; no bytes are no command. -/
theorem test_decode_illegal :
    (decodeTableWord 8 0x23, decodeTableWord 8 0x30, decodeTableWord 8 0x00, decodeTableWord 8 0xFF) =
      (none, none, none, none) ∧ decode [] = .error .noByte := by
  exact ⟨by decide, rfl⟩

/-- No two rows of the table fit the same byte (R59). -/
theorem test_table_rows_disjoint :
    opTable.Pairwise (fun p q => p.code &&& p.mask &&& q.mask ≠ q.code &&& p.mask &&& q.mask) := by decide

/-! ### Well-formedness -/

/-- Every command is well formed: there is no operand to check (R58). -/
theorem test_every_command_well_formed : (Instr.all.map Instr.wellFormed).all id = true := by decide

/-- R64: a send of three parameters is refused, and has no expansion; one of two is accepted. -/
theorem test_pseudo_send_three_refused :
    Pseudo.wellFormed (.send 0x1234 [1, 2, 3]) = false ∧ expand (.send 0x1234 [1, 2, 3]) = none ∧
    Pseudo.wellFormed (.send 0x1234 [1, 2]) = true := by decide

/-- R64: a read of zero or of four words is refused; one of three is accepted. -/
theorem test_pseudo_read_range :
    Pseudo.wellFormed (.read 0) = false ∧ Pseudo.wellFormed (.read 4) = false ∧ Pseudo.wellFormed (.read 3) = true ∧
    expand (.read 0) = none ∧ expand (.read 4) = none := by decide

/-- R63, R64: `SEND opc, p` is three host writes, the last of code 0x21 to register 0. -/
theorem test_expand_send1 :
    expand (.send 0x1234 [0xBEEF]) = some [.write 4 0x1234, .write 5 0xBEEF, .write 0 0x21] := by decide

/-! ### The CRC (spec/95_test_vectors.md 2.1, 2.3) -/

theorem test_crc8_of_digits :
    crc8 [0x31, 0x32, 0x33, 0x34, 0x35, 0x36, 0x37, 0x38, 0x39] = 0xF7 := by decide +kernel

theorem test_crc8_word_byte_order : crc8Word 0xBEEF = 0x92 ∧ crc8Word 0xEFBE = 0xCE := by decide +kernel

/-- R81: the trace of the golden input, first byte. -/
theorem test_crc8_trace :
    (List.range 9).map (fun n => crc8Bits n (0xFF ^^^ 0xBE)) =
      [0x41, 0x82, 0x35, 0x6A, 0xD4, 0x99, 0x03, 0x06, 0x0C] := by decide +kernel

theorem test_crcinit : accAfter .crcInit { State.reset with acc := 0x92 } = some 0xFF := by decide +kernel
theorem test_crcinit_faulted : accAfter .crcInit faultedS = some 0x12 := by decide +kernel
theorem test_crcbyte : accAfter .crcByte { State.reset with din := 0xBE } = some 0x0C := by decide +kernel
theorem test_crcbyte_din_equals_acc :
    accAfter .crcByte { State.reset with acc := 0x92, din := 0x92 } = some 0x00 := by decide +kernel
theorem test_crc8w : accAfter .crc8w { State.reset with acc := 0x55, p1 := 0xFF00 } = some 0x00 := by decide +kernel
theorem test_crc8w_while_closed : accAfter .crc8w { State.reset with p1 := 0xD400 } = some 0xC6 := by decide +kernel

/-! ### The framer (2.4) -/

theorem test_send0 :
    resAfter .send0 { openS [.ok []] with opc := 0x1234 } = some (.ok [], [.write [0x12, 0x34]]) := by decide +kernel
theorem test_send0_failing_write :
    resAfter .send0 { openS [.fail 1] with opc := 0xFFFF } = some (.failTransport, [.write [0xFF, 0xFF]]) := by
  decide +kernel
theorem test_send1 :
    resAfter .send1 { openS [.ok []] with opc := 0x1234, p1 := 0xBEEF } =
      some (.ok [], [.write [0x12, 0x34, 0xBE, 0xEF, 0x92]]) := by decide +kernel
theorem test_send2 :
    resAfter .send2 { openS [.ok []] with opc := 0xABCD, p1 := 0x8A3C, p2 := 0x9127 } =
      some (.ok [], [.write [0xAB, 0xCD, 0x8A, 0x3C, 0xF4, 0x91, 0x27, 0x29]]) := by decide +kernel

/-- R6, R20: the largest frame and the largest response. -/
theorem test_buffer_sizes : txBufBytes = 8 ∧ rxBufBytes = 9 := by decide

/-! ### The parser (2.5) -/

theorem test_read1 : resAfter .read1 (openS [.ok [0xD4, 0x00, 0xC6]]) = some (.ok [0xD400], [.read 3]) := by
  decide +kernel
theorem test_read1_short_buffer : resAfter .read1 (openS [.ok [0xBE, 0xEF]]) = some (.failTransport, [.read 3]) := by
  decide +kernel
theorem test_read2 :
    resAfter .read2 (openS [.ok [0x00, 0x0A, 0x5A, 0x01, 0x90, 0x4C]]) = some (.ok [0x000A, 0x0190], [.read 6]) := by
  decide +kernel
theorem test_read2_both_invalid :
    resAfter .read2 (openS [.ok [0x01, 0x91, 0x4C, 0x00, 0x0B, 0x5A]]) = some (.failChecksum 0, [.read 6]) := by
  decide +kernel
theorem test_read3 :
    resAfter .read3 (openS [.ok [0x01, 0x02, 0x17, 0x03, 0x04, 0x68, 0x05, 0x06, 0x50]]) =
      some (.ok [0x0102, 0x0304, 0x0506], [.read 9]) := by decide +kernel
theorem test_read3_two_invalid :
    resAfter .read3 (openS [.ok [0x01, 0x02, 0x17, 0x03, 0x05, 0x68, 0x05, 0x06, 0x51]]) =
      some (.failChecksum 1, [.read 9]) := by decide +kernel

/-! ### The session (2.6) -/

theorem test_open : sessAfter .openSession (closedS [.ok []]) = some (.opened, .noFault, .ok []) := by decide +kernel
theorem test_open_while_open :
    sessAfter .openSession (openS [.ok []]) = some (.opened, .alreadyOpen, .noResult) := by decide +kernel
theorem test_close_failing : sessAfter .closeSession (openS [.fail 0]) = some (.closed, .noFault, .failTransport) := by
  decide +kernel
theorem test_close_while_closed : sessAfter .closeSession (closedS []) = some (.closed, .noFault, .ok []) := by
  decide +kernel

/-! ### Faults, port and reset (2.7, R16, R36) -/

theorem test_illegal_before_session :
    ((nextOf (step (withInputs State.reset [.write 0 0x23]))).map (·.fault)) = some .illegalCommand := by decide +kernel
theorem test_first_fault_kept :
    ((nextOf (step (withInputs faultedS [.write 0 0x00]))).map (·.fault)) = some .notOpen := by decide +kernel
theorem test_write_while_faulted :
    ((nextOf (step (withInputs faultedS [.write 5 0x1234]))).map (·.p1)) = some 0x1234 := by decide +kernel
theorem test_status_read :
    ((nextOf (step (withInputs { State.reset with res := .failChecksum 1 } [.read 1]))).map (·.portReads)) =
      some [⟨1, .byte 0x8C⟩] := by decide +kernel
theorem test_word_read :
    ((nextOf (step (withInputs { State.reset with res := .ok [0x8A3C, 0x9127] } [.read 10]))).map (·.portReads)) =
      some [⟨10, .word 0x9127⟩] := by decide +kernel
/-- 95_test_vectors.md P2, false variant: after `CLOSE` the word register holds no value, so its read is a free value. -/
theorem test_word_read_without_value :
    step (withInputs { State.reset with res := .ok [] } [.read 9]) =
      .next { State.reset with res := .ok [], draws := 1, portReads := [⟨9, .word (Config.wordDraw 0)⟩] } := by rfl
theorem test_wide_write_to_narrow_register :
    ((nextOf (step (withInputs State.reset [.write 7 0x12BE]))).map (·.din)) = some 0xBE := by decide +kernel
theorem test_hang_keeps_state :
    (nextOf (exec .read1 (openS [.never 0]))).map (fun t => (t.res, t.waiting, t.events)) =
      some (.noResult, some (.read 3), [⟨.read 3, .never 0⟩]) := by decide +kernel
theorem test_reset_ends_hang :
    ((nextOf (step (hungS [.reset]))).map fun t => (t.waiting, t.sess)) = some (none, .closed) := by decide +kernel
theorem test_partial_write_front :
    delivered ⟨.write [0x12, 0x34], .fail 1⟩ = [0x12] := by decide
theorem test_placed_command_runs :
    ((nextOf (step (State.reset.withFetchWord 8 0x20))).map (·.fault)) = some .notOpen := by decide +kernel

/-! ### The host's operations (1.5, 1.7, 2.8) -/

theorem test_self_test_verdicts :
    HostOp.verdict .selfTest (.ok [0xD400]) = .success .nothing ∧
    HostOp.verdict .selfTest (.ok [0x0000]) = .failure .protocol := by decide
theorem test_serial_text :
    serialText 0x0102 0x0304 0x0506 = ['0', '1', '0', '2', '0', '3', '0', '4', '0', '5', '0', '6'] ∧
    serialText 0x0000 0x00AB 0xFFFF = ['0', '0', '0', '0', '0', '0', 'a', 'b', 'f', 'f', 'f', 'f'] := by decide +kernel
theorem test_humidity_range :
    humidityAccepts 150 50 = false ∧ humidityAccepts 25 (-1) = false ∧ humidityAccepts 100 100 = true ∧
    humidityAccepts (-100) 100 = true := by decide +kernel
/-- R127, R133: inputs out of range are a Protocol failure, whatever `RES` holds. -/
theorem test_humidity_rejected :
    HostOp.verdict (.setHumidity 150 50) (.ok []) = .failure .protocol ∧
    HostOp.verdict (.setHumidity 25 50) (.ok []) = .success .nothing := by decide +kernel
theorem test_humidity_rejected_issues_nothing (enc : HumidityEncoder) :
    HostOp.perform enc 0xA004 (.setHumidity 25 (-1)) (hostS (openS [.ok []])) =
        .done (.failure .protocol) (hostS (openS [.ok []])) ∧
      HostOp.openAndPerform enc 0xA004 (.setHumidity 25 (-1)) (hostS (closedS [.ok []])) =
        .done (.failure .protocol) (hostS (closedS [.ok []])) := by
  have hr : (HostOp.setHumidity 25 (-1)).rejected = true := by decide +kernel
  exact ⟨perform_rejected enc _ rfl hr, by simp [HostOp.openAndPerform, hr]; exact perform_rejected enc _ rfl hr⟩
/-- R132: 25 °C and 50 % give 0x0B7C, sent in `P1` by `SEND1`. -/
theorem test_humidity_send (enc : HumidityEncoder) :
    HostOp.sendPart enc 0xA004 (.setHumidity 25 50) =
      some [.write 4 0xA004, .write 5 0x0B7C, .write 0 0x21] := by
  have ha : humidityAccepts 25 50 = true := by decide +kernel
  simp [HostOp.sendPart, HostOp.usesBlock, HostOp.params, humidityWord?, ha, enc.exactAt25And50]
  decide
theorem test_set_baseline_order (enc : HumidityEncoder) :
    HostOp.sendPart enc 0xA001 (.setBaseline 0x8A3C 0x9127) =
      some [.write 4 0xA001, .write 5 0x8A3C, .write 6 0x9127, .write 0 0x22] := rfl

/-- The sequence of the self-test (R121, R122, R128; program P3), with the opcode P3 has for it. -/
def selfTestActions : List HostAction :=
  [.access (.write 4 0xA003), .access (.write 0 0x20), .check, .wait 220, .access (.write 0 0x31), .check]

theorem test_self_test_sequence (enc : HumidityEncoder) : HostOp.actions enc 0xA003 .selfTest = some selfTestActions := rfl

/-- What the self-test comes to with the given answers of the environment, and the calls made; none if it has no
result. -/
def selfTestOutcome (answers : List BusAnswer) : Option (HostResult × List BusCall) :=
  match HostOp.selfTest.outcome (runActions selfTestActions (hostS (openS answers))) with
  | .done r h => some (r, h.block.events.map (·.call))
  | .notOpen _ => none
  | .wentWrong _ => none
  | .blocked _ => none

/-- Program P3, scripts a to d. -/
theorem test_self_test_scripts :
    selfTestOutcome [.ok [], .ok [0xD4, 0x00, 0xC6]] = some (.success .nothing, [.write [0xA0, 0x03], .read 3]) ∧
    selfTestOutcome [.ok [], .ok [0x00, 0x00, 0x81]] = some (.failure .protocol, [.write [0xA0, 0x03], .read 3]) ∧
    selfTestOutcome [.ok [], .ok [0xD4, 0x01, 0xC6]] = some (.failure .checksum, [.write [0xA0, 0x03], .read 3]) ∧
    selfTestOutcome [.ok [], .fail 0] = some (.failure .transport, [.write [0xA0, 0x03], .read 3]) := by decide +kernel
/-- R121: a failed send ends the operation, and no read is issued. -/
theorem test_failed_send_stops :
    selfTestOutcome [.fail 1, .ok [0xD4, 0x00, 0xC6]] = some (.failure .transport, [.write [0xA0, 0x03]]) := by
  decide +kernel
theorem test_failed_send_performed (enc : HumidityEncoder) :
    ∃ s, HostOp.perform enc 0xA003 .selfTest (hostS (openS [.fail 1])) = .done (.failure .transport) s := ⟨_, rfl⟩
/-- R36: a host whose command hangs has no result. -/
theorem test_hung_operation_blocks (enc : HumidityEncoder) :
    ∃ s, HostOp.perform enc 0xA003 .selfTest (hostS (openS [.ok [], .never 0])) = .blocked s := ⟨_, rfl⟩
/-- R130: the soft reset writes the byte 0x06 to the general-call address 0x00 and leaves the block alone; a failed
write is a failure. -/
theorem test_soft_reset (enc : HumidityEncoder) :
    HostOp.actions enc 0x1234 .softReset = some [.alternateWrite 0x00 [0x06]] ∧
    HostOp.perform enc 0x1234 .softReset (hostS (openS [.fail 0])) =
      .done (.failure .transport) ⟨openS [], [⟨0x00, [0x06], .fail 0⟩]⟩ := ⟨rfl, rfl⟩
/-- R131 (a): while Closed, also after a `CLOSE` that left a success in `RES`, nothing is issued; the host opens first. -/
theorem test_closed_issues_nothing (enc : HumidityEncoder) :
    HostOp.perform enc 0x1234 .initMeasurements (hostS { closedS [] with res := .ok [] }) =
      .notOpen (hostS { closedS [] with res := .ok [] }) ∧
    HostOp.perform enc 0x1234 .softReset (hostS (closedS [])) = .notOpen (hostS (closedS [])) := ⟨rfl, rfl⟩
theorem test_open_first (enc : HumidityEncoder) :
    HostOp.openAndPerform enc 0x1234 .initMeasurements (hostS (closedS [.ok [], .ok []])) =
      .done (.success .nothing) (hostS { openS [] with
        opc := 0x1234, res := .ok [], events := [⟨.openBus, .ok []⟩, ⟨.write [0x12, 0x34], .ok []⟩] }) ∧
    HostOp.openAndPerform enc 0x1234 .initMeasurements (hostS (closedS [.fail 0])) =
      .done (.failure .transport) (hostS { closedS [] with
        res := .failTransport, events := [⟨.openBus, .fail 0⟩] }) := ⟨rfl, rfl⟩
/-- R148, program P5: a send while Closed is a run gone wrong, also where `RES` holds a success. -/
theorem test_faulted_run_went_wrong :
    runActions [.access (.write 4 0xA001), .access (.write 0 0x20), .check] (hostS { closedS [] with res := .ok [] }) =
      .wentWrong (hostS { closedS [] with res := .ok [], opc := 0xA001, fault := .notOpen }) := by rfl

/-! ### Witnesses: for each statement with hypotheses, a state and operands that meet them, clause by clause -/

theorem witness_ResetInputResetsEveryState :
    (hungS [.reset]).inputs = .reset :: [] ∧ (withInputs faultedS [.reset, .read 1]).inputs = .reset :: [.read 1] ∧
    State.reset.inputs = [] ∧ faultedS.inputs = [] ∧ (hungS []).inputs = [] := by
  decide

theorem witness_OpenAcquiresBus :
    faultedS.fault ≠ .noFault ∧ ((openS []).fault = .noFault ∧ (openS []).sess = .opened) ∧
    ((closedS [.ok []]).fault = .noFault ∧ (closedS [.ok []]).sess = .closed ∧
      answerTo .openBus (closedS [.ok []]) = .ok []) ∧
    answerTo .openBus (closedS [.fail 0]) = .fail 0 ∧ answerTo .openBus (closedS [.never 0]) = .never 0 := by decide

theorem witness_CloseReleasesBus :
    faultedS.fault ≠ .noFault ∧ ((closedS []).fault = .noFault ∧ (closedS []).sess = .closed) ∧
    ((openS [.ok []]).fault = .noFault ∧ (openS [.ok []]).sess = .opened ∧
      answerTo .closeBus (openS [.ok []]) = .ok []) ∧
    answerTo .closeBus (openS [.fail 0]) = .fail 0 ∧ answerTo .closeBus (openS [.never 0]) = .never 0 := by decide

theorem witness_SessionMovesOnlyByOpenCloseReset :
    ((nextOf (step (withInputs (closedS [.ok []]) [.write 0 0x01]))).map (·.sess)) = some .opened ∧
    ((nextOf (step (withInputs (openS [.ok []]) [.write 0 0x02]))).map (·.sess)) = some .closed ∧
    ((nextOf (step (withInputs (openS []) [.reset]))).map (·.sess)) = some .closed := by decide +kernel

theorem witness_CrcBitStepShiftsAndReduces :
    128 ≤ (0x80 : Byte).toNat ∧ 128 ≤ (0xFF : Byte).toNat ∧ (0x7F : Byte).toNat < 128 ∧ (0x00 : Byte).toNat < 128 := by
  decide

theorem witness_UpToThreeBitErrorsInGroupDetected :
    groupValid ((0xBEEF92#24).extractLsb' 16 8) ((0xBEEF92#24).extractLsb' 8 8) ((0xBEEF92#24).extractLsb' 0 8) = true ∧
    (List.range 24).countP (fun k => (0x000001#24).getLsbD k) = 1 ∧
    (List.range 24).countP (fun k => (0x800101#24).getLsbD k) = 3 := by decide +kernel

theorem witness_CrcInitSetsStartValue : faultedS.fault ≠ .noFault ∧ State.reset.fault = .noFault := by decide
theorem witness_CrcByteFeedsDin : faultedS.fault ≠ .noFault ∧ State.reset.fault = .noFault := by decide

theorem witness_Crc8wIsChecksumOfP1 :
    faultedS.fault ≠ .noFault ∧ State.reset.fault = .noFault ∧
    ∃ t u v, exec .crcInit State.reset = .next t ∧
      exec .crcByte { t with din := State.reset.p1.extractLsb' 8 8 } = .next u ∧
      exec .crcByte { u with din := State.reset.p1.extractLsb' 0 8 } = .next v :=
  ⟨by decide, rfl, _, _, _, rfl, rfl, rfl⟩

theorem witness_AccChangesOnlyByCrcCommandsAndReset :
    ((nextOf (step (withInputs State.reset [.write 0 0x11]))).map (·.acc)) = some 0xAC := by decide +kernel

theorem witness_CrcCommandsChangeAccOnly :
    (Instr.crcByte = .crcInit ∨ Instr.crcByte = .crcByte ∨ Instr.crcByte = .crc8w) ∧
    (nextOf (exec .crcByte State.reset)).isSome = true := by decide +kernel

theorem witness_FrameLayoutIsOpcodeThenGroups :
    ([0x0102, 0x0304] : List Word)[0]? = some 0x0102 ∧ ([0x0102, 0x0304] : List Word)[1]? = some 0x0304 := by decide

theorem witness_ParseAcceptsValidGroups :
    (∀ g ∈ ([(0xD4, 0x00, 0xC6)] : List (Byte × Byte × Byte)), crc8 [g.1, g.2.1] = g.2.2) ∧
    (∀ g ∈ ([(0x01, 0x02, 0x17), (0x03, 0x04, 0x68), (0x05, 0x06, 0x50)] : List (Byte × Byte × Byte)),
      crc8 [g.1, g.2.1] = g.2.2) := by
  simp only [List.forall_mem_cons]
  exact ⟨⟨by decide +kernel, by simp⟩, by decide +kernel, by decide +kernel, by decide +kernel, by simp⟩

theorem witness_ParseReportsLowestInvalidGroup :
    crc8 [0xD4, 0x00] ≠ 0xC7 ∧
    (crc8 [0x01, 0x02] = 0x17 ∧ crc8 [0x03, 0x04] = 0x68 ∧ crc8 [0x05, 0x06] ≠ 0x51) ∧
    parse 1 [0xD4, 0x00, 0xC7] = .failChecksum 0 ∧
    parse 3 [0x01, 0x02, 0x17, 0x03, 0x04, 0x68, 0x05, 0x06, 0x51] = .failChecksum 2 := by decide +kernel

/-- `ParseGivesAllWordsOrOneFailure` and `ParseInvertsGroups`: lengths at the bound. -/
theorem witness_parse_lengths : 3 ≤ 3 ∧ ([0xFFFF, 0x0000, 0xFF00] : List Word).length ≤ 3 := by decide

theorem witness_Send0SendsBareOpcode :
    faultedS.fault ≠ .noFault ∧ ((closedS []).fault = .noFault ∧ (closedS []).sess = .closed) ∧
    ((openS [.ok []]).fault = .noFault ∧ (openS [.ok []]).sess = .opened ∧
      answerTo (.write [0x00, 0x00]) (openS [.ok []]) = .ok []) ∧
    answerTo (.write [0x00, 0x00]) (openS [.fail 1]) = .fail 1 ∧
    answerTo (.write [0x00, 0x00]) (openS [.never 2]) = .never 2 := by decide

theorem witness_Send1SendsOneChecksummedWord :
    faultedS.fault ≠ .noFault ∧ ((closedS []).fault = .noFault ∧ (closedS []).sess = .closed) ∧
    ((openS [.ok []]).fault = .noFault ∧ (openS [.ok []]).sess = .opened ∧
      answerTo (.write [0x00, 0x00, 0x00, 0x00, 0x81]) (openS [.ok []]) = .ok []) ∧
    answerTo (.write [0x00, 0x00, 0x00, 0x00, 0x81]) (openS [.fail 0]) = .fail 0 ∧
    answerTo (.write [0x00, 0x00, 0x00, 0x00, 0x81]) (openS [.never 5]) = .never 5 := by decide

theorem witness_Send2SendsTwoChecksummedWords :
    faultedS.fault ≠ .noFault ∧ ((closedS []).fault = .noFault ∧ (closedS []).sess = .closed) ∧
    ((openS [.ok []]).fault = .noFault ∧ (openS [.ok []]).sess = .opened ∧
      answerTo (.write [0x00, 0x00, 0x00, 0x00, 0x81, 0x00, 0x00, 0x81]) (openS [.ok []]) = .ok []) ∧
    answerTo (.write [0x00, 0x00, 0x00, 0x00, 0x81, 0x00, 0x00, 0x81]) (openS [.fail 8]) = .fail 8 ∧
    answerTo (.write [0x00, 0x00, 0x00, 0x00, 0x81, 0x00, 0x00, 0x81]) (openS [.never 9]) = .never 8 := by decide

theorem witness_SendsWriteOneFrameAndResOnly :
    (nextOf (exec .send0 faultedS)).isSome = true ∧ (nextOf (exec .send1 (closedS []))).isSome = true ∧
    (nextOf (exec .send2 (openS [.ok []]))).isSome = true := by decide +kernel

theorem witness_Read1ReadsOneWord :
    faultedS.fault ≠ .noFault ∧ ((closedS []).fault = .noFault ∧ (closedS []).sess = .closed) ∧
    ((openS [.ok [0, 0, 0x81]]).fault = .noFault ∧ (openS [.ok [0, 0, 0x81]]).sess = .opened ∧
      answerTo (.read 3) (openS [.ok [0, 0, 0x81]]) = .ok [0, 0, 0x81]) ∧
    answerTo (.read 3) (openS [.ok [0, 0]]) = .ok [0, 0] ∧ answerTo (.read 3) (openS [.fail 0]) = .fail 0 ∧
    answerTo (.read 3) (openS [.never 0]) = .never 0 := by decide

theorem witness_Read2ReadsTwoWords :
    faultedS.fault ≠ .noFault ∧ ((closedS []).fault = .noFault ∧ (closedS []).sess = .closed) ∧
    ((openS []).fault = .noFault ∧ (openS []).sess = .opened) ∧
    answerTo (.read 6) (openS [.ok [0, 0, 0x81, 0, 0, 0x81]]) = .ok [0, 0, 0x81, 0, 0, 0x81] ∧
    answerTo (.read 6) (openS [.ok []]) = .ok [] ∧ answerTo (.read 6) (openS [.fail 0]) = .fail 0 ∧
    answerTo (.read 6) (openS [.never 0]) = .never 0 := by decide

theorem witness_Read3ReadsThreeWords :
    faultedS.fault ≠ .noFault ∧ ((closedS []).fault = .noFault ∧ (closedS []).sess = .closed) ∧
    ((openS []).fault = .noFault ∧ (openS []).sess = .opened) ∧
    answerTo (.read 9) (openS [.ok [0, 0, 0x81, 0, 0, 0x81, 0, 0, 0x81]]) = .ok [0, 0, 0x81, 0, 0, 0x81, 0, 0, 0x81] ∧
    answerTo (.read 9) (openS [.ok [0]]) = .ok [0] ∧ answerTo (.read 9) (openS [.fail 0]) = .fail 0 ∧
    answerTo (.read 9) (openS [.never 0]) = .never 0 := by decide

theorem witness_ReadsMakeOneReadAndChangeResOnly :
    (nextOf (exec .read1 faultedS)).isSome = true ∧ (nextOf (exec .read2 (closedS []))).isSome = true ∧
    (nextOf (exec .read3 (openS [.fail 0]))).isSome = true := by decide +kernel

theorem witness_Send2ThenRead2ReturnsParameters :
    (openS [.ok [], .ok [0x00, 0x00, 0x81, 0x00, 0x00, 0x81]]).fault = .noFault ∧
    (openS [.ok [], .ok [0x00, 0x00, 0x81, 0x00, 0x00, 0x81]]).sess = .opened ∧
    (frame 0x0000 [0x0000, 0x0000]).drop 2 = [0x00, 0x00, 0x81, 0x00, 0x00, 0x81] := by decide +kernel

/-- One group of one with a bit of the data flipped, and the last group of three with a bit of its checksum flipped. -/
theorem witness_CorruptedResponseNeverAccepted :
    groupValid 0xBE 0xEF 0x92 = true ∧ groupValid 0x05 0x06 0x50 = true ∧
    (List.range 24).countP (fun j => (0x000100#24).getLsbD j) = 1 ∧
    ([((0xBEEF92#24).extractLsb' 16 8, (0xBEEF92#24).extractLsb' 8 8, (0xBEEF92#24).extractLsb' 0 8)] :
      List (Byte × Byte × Byte)) = [(0xBE, 0xEF, 0x92)] ∧
    ([(0xBE, 0xEF, 0x92)] : List (Byte × Byte × Byte))[(0 : Fin 3).val]? = some (0xBE, 0xEF, 0x92) ∧
    ([(0x01, 0x02, 0x17), (0x03, 0x04, 0x68), (0x05, 0x06, 0x50)] : List (Byte × Byte × Byte))[(2 : Fin 3).val]? =
      some (0x05, 0x06, 0x50) ∧
    resAfter .read1 (openS [.ok [0xBE, 0xEE, 0x92]]) = some (.failChecksum 0, [.read 3]) ∧
    resAfter .read3 (openS [.ok [0x01, 0x02, 0x17, 0x03, 0x04, 0x68, 0x05, 0x06, 0x51]]) =
      some (.failChecksum 2, [.read 9]) := by decide +kernel

theorem witness_BusCallAddsOneEventAndUsesOneAnswer :
    (openS [.fail 0, .ok []]).answers = .fail 0 :: [.ok []] ∧ (openS []).answers = [] := by decide

theorem witness_StepMakesAtMostOneBusCall :
    ((nextOf (step (withInputs (openS [.fail 0]) [.write 0 0x33]))).map (·.events)) =
      some [⟨.read 9, .fail 0⟩] := by decide +kernel

theorem witness_HungCommandChangesNothingAndWaitsForever :
    ((openS [.never 0]).waiting = none ∧
      ((nextOf (exec .read1 (openS [.never 0]))).map (·.waiting)) = some (some (.read 3))) ∧
    (hungS [.read 1]).waiting = some (.read 3) ∧ ∀ rest, (hungS [.read 1]).inputs ≠ .reset :: rest :=
  ⟨by decide +kernel, by decide, fun _ h => by cases h⟩

theorem witness_RaisingFaultChangesNothingElse :
    ((nextOf (step (withInputs State.reset [.write 0 0x30]))).map (·.fault)) = some .illegalCommand := by decide +kernel

theorem witness_FaultedBlockIgnoresCommands : faultedS.fault ≠ .noFault := by decide

theorem witness_FaultStaysUntilReset :
    faultedS.fault ≠ .noFault ∧ (∀ rest, (withInputs faultedS [.write 0 0x01]).inputs ≠ .reset :: rest) ∧
    (nextOf (step (withInputs faultedS [.write 0 0x01]))).isSome = true :=
  ⟨by decide, (fun _ h => by cases h), by decide +kernel⟩

theorem witness_IllegalCodeRaisesIllegalCommand :
    (∀ i ∈ Instr.all, encodeCode i ≠ 0x23) ∧ (∀ i ∈ Instr.all, encodeCode i ≠ 0x30) ∧ (∀ i : Instr, i ∈ Instr.all) ∧
    State.reset.fault = .noFault ∧ (openS []).fault = .noFault ∧
    (withInputs (openS []) [.write 0 0x5523, .read 1]).inputs = .write 0 0x5523 :: [.read 1] ∧
    (withInputs (openS []) [.write 0 0x5523, .read 1]).waiting = none ∧ (0x5523 : Word).setWidth 8 = (0x23 : Byte) := by
  exact ⟨by decide, by decide, (fun i => by cases i <;> decide), rfl, rfl, rfl, rfl, rfl⟩

theorem witness_SessionPreconditionsRaiseFaults :
    ((closedS []).fault = .noFault ∧ (closedS []).sess = .closed) ∧
    ((openS []).fault = .noFault ∧ (openS []).sess = .opened) := by decide

theorem witness_ResChangesOnlyByBusCommandsAndReset :
    ((nextOf (step (withInputs State.reset [.write 0 0x02]))).map (·.res)) = some (.ok []) ∧ State.reset.res = .noResult := by
  decide +kernel

/-- `CommandsLeaveOperandsAlone`, `SessionCommandsLeaveAccAndOperands`. -/
theorem witness_command_frames :
    (nextOf (exec .openSession (closedS [.ok []]))).isSome = true ∧
    (nextOf (exec .closeSession (closedS []))).isSome = true := by decide +kernel

/-- `HostWriteSetsOperandOrIsIgnored`: each clause, at the ends of its range. -/
theorem witness_HostWriteSetsOperandOrIsIgnored :
    [1, 2, 3, 4, 5, 6, 7, 8, 11, 12].all (fun n =>
      (withInputs State.reset [.write n 0x1234]).inputs == [.write n 0x1234]) = true ∧ State.reset.waiting = none := by
  decide

/-- `HostReadReturnsHeldValue`: the word registers at the ends of their range. -/
theorem witness_HostReadReturnsHeldValue :
    (withInputs State.reset [.read 8]).inputs = [.read 8] ∧ State.reset.waiting = none ∧
    ([0x0102, 0x0304, 0x0506] : List Word)[0]? = some 0x0102 ∧ ([0x0102, 0x0304, 0x0506] : List Word)[2]? = some 0x0506 := by
  decide

/-- `HostReadWithoutValueDraws`: `CMD`, the first word register after reset, the third after a read of two words, the
first absent number. -/
theorem witness_HostReadWithoutValueDraws :
    (withInputs State.reset [.read 0]).inputs = [.read 0] ∧ State.reset.waiting = none ∧
    (∀ ws, State.reset.res = .ok ws → ws.length ≤ 0) ∧
    (∀ ws, Result.ok [0x0102, 0x0304] = .ok ws → ws.length ≤ 2) ∧ 12 ≤ 12 :=
  ⟨rfl, rfl, (fun _ h => by cases h), (fun _ h => by cases h; decide), Nat.le_refl 12⟩

theorem witness_StatusEncodesResult : (Result.ok [0, 0, 0]).wf = true ∧ Result.wf (.failChecksum 2) = true := by decide

theorem witness_StepRunsDecodedCommand :
    (withInputs State.reset [.write 0 0x10]).inputs = .write 0 0x10 :: [] ∧ State.reset.waiting = none ∧
    decodeCode ((0x10 : Word).setWidth 8) = .ok .crcInit :=
  ⟨rfl, rfl, rfl⟩

/-- `StepKeepsInvariant`: a hung block meets the invariant and has a next state. -/
theorem witness_StepKeepsInvariant :
    inv (hungS [.reset]) = true ∧ (nextOf (step (hungS [.reset]))).isSome = true := by decide +kernel

end Sys2Proof.Tests
end

section
/-! PROOFS of the family 00_scope.md: a bus call and its one event (O38), at most one bus call per step (O40). -/

namespace Sys2Proof.Machine

/-! ### One bus call (R5, R35, R40) -/

theorem answerTo_drawn {s : State} (c : BusCall) (h : s.answers = []) :
    answerTo c s = shapeAnswer c (Config.busDraw s.draws) := by
  simp [answerTo, nextAnswer_drawn h]

theorem useAnswer_scripted {s : State} {a : BusAnswer} {rest : List BusAnswer} (h : s.answers = a :: rest) :
    useAnswer s = { s with answers := rest } := by
  simp [useAnswer, h]

theorem useAnswer_drawn {s : State} (h : s.answers = []) : useAnswer s = { s with draws := s.draws + 1 } := by
  cases s
  simp_all [useAnswer]

/-- Settles O38: with an answer in the script and with none, each from what the call is answered and what using that
answer up leaves. -/
theorem busCallAddsOneEventAndUsesOneAnswer : Obligations.BusCallAddsOneEventAndUsesOneAnswer := by
  refine ⟨fun c s a rest h => ⟨answerTo_scripted c h, ?_⟩, fun c s h => ⟨answerTo_drawn c h, ?_⟩⟩
  · rw [logCall, useAnswer_scripted h, answerTo_scripted c h]
  · rw [logCall, useAnswer_drawn h, answerTo_drawn c h]

/-! ### The event history under each access -/

@[simp] theorem writeReg_events (r : PortReg) (v : Word) (s : State) : (writeReg r v s).events = s.events := by
  cases r <;> rfl

@[simp] theorem hostRead_events (reg : Nat) (s : State) : (hostRead reg s).events = s.events := by
  rcases hostRead_cases reg s with ⟨v, _, e⟩ | ⟨_, e⟩ <;> rw [e]

theorem unlessFaulted_raiseFault_events (f : FaultCode) (s : State) :
    (unlessFaulted (raiseFault f) s).events = s.events := by
  rcases unlessFaulted_cases (raiseFault f) s with ⟨_, e⟩ | ⟨_, e⟩ <;> rw [e]
  exact raiseFault_events f s

/-! ### The event history under a command (R5, R39) -/

/-- However the call comes out, it is the one event that is added. -/
theorem AfterCall.events_eq {i : Instr} {c : BusCall} {s t : State} (h : AfterCall i c s t) :
    t.events = s.events ++ [⟨c, answerTo c s⟩] := by
  rcases h with ⟨n, _, rfl⟩ | ⟨buf, r, _, _, rfl⟩ | ⟨n, _, rfl⟩ <;> simp

/-- A command adds no event, or, on a block that is not faulted, the one event of the call it makes. -/
theorem exec_events {i : Instr} {s t : State} (h : exec i s = .next t) :
    t.events = s.events ∨
    (s.fault = .noFault ∧ ∃ c, callOf i s = some c ∧ t.events = s.events ++ [⟨c, answerTo c s⟩]) := by
  rcases exec_effect h with ⟨_, rfl⟩ | ⟨hf, ⟨_, a, rfl⟩ | ⟨f, _, rfl⟩ | ⟨_, _, rfl⟩ | ⟨c, hc, _, ha⟩⟩
  · exact .inl rfl
  · exact .inl (setAcc_events a s)
  · exact .inl (raiseFault_events f s)
  · exact .inl (setRes_events (.ok []) s)
  · exact .inr ⟨hf, c, hc, ha.events_eq⟩

/-! ### The codes that call the bus (R39, R58, R59) -/

/-- The table holds every command under its code, and its mask keeps all eight bits (R58, R59). -/
theorem opTable_rows : ∀ row ∈ opTable, row.mask = BitVec.allOnes 8 ∧ row.code = encodeCode row.instr := by decide

/-- A byte that is decoded is the code of the command it selects. -/
theorem eq_encodeCode_of_decodeCode {c : Byte} {i : Instr} (h : decodeCode c = .ok i) : c = encodeCode i := by
  unfold decodeCode at h
  cases hr : opTable.find? (fun row => row.fits c) with
  | none => simp [hr] at h
  | some row =>
    obtain ⟨hm, hcode⟩ := opTable_rows row (List.mem_of_find?_eq_some hr)
    have hfits : c &&& row.mask = row.code := by simpa [OpRow.fits] using List.find?_some hr
    have hi : row.instr = i := by simpa [hr] using h
    rw [hm, BitVec.and_allOnes, hcode, hi] at hfits
    exact hfits

/-- A command that calls the bus has one of the eight codes. -/
theorem encodeCode_mem_of_callOf {i : Instr} {s : State} {c : BusCall} (h : callOf i s = some c) :
    encodeCode i ∈ ([0x01, 0x02, 0x20, 0x21, 0x22, 0x31, 0x32, 0x33] : List Byte) := by
  cases i with
  | crcInit | crcByte | crc8w => simp [callOf] at h
  | _ => decide

/-! ### One step -/

/-- A host write adds no event, or it issues the code of a command that calls the bus, on a block that is not faulted,
and adds the one event of that call. -/
theorem hostWrite_events {reg : Nat} {v : Word} {s t : State} (h : hostWrite reg v s = .next t) :
    t.events = s.events ∨
    (∃ i c, reg = 0 ∧ narrow v = encodeCode i ∧ s.fault = .noFault ∧ callOf i s = some c ∧
      t.events = s.events ++ [⟨c, answerTo c s⟩]) := by
  rcases hostWrite_cases reg v s with ⟨h0, i, hd, e⟩ | ⟨_, _, e⟩ | ⟨r, _, _, e⟩ | ⟨_, e⟩ <;> rw [e] at h
  · rcases exec_events h with he | ⟨hf, c, hc, he⟩
    · exact .inl he
    · exact .inr ⟨i, c, h0, eq_encodeCode_of_decodeCode hd, hf, hc, he⟩
  · cases h
    exact .inl (unlessFaulted_raiseFault_events _ s)
  · cases h
    exact .inl (writeReg_events r v s)
  · cases h
    exact .inl rfl

/-- Settles O40: of all that a step can do only a host write makes a call, and only where nothing waits. -/
theorem stepMakesAtMostOneBusCall : Obligations.StepMakesAtMostOneBusCall := by
  intro s t h
  rcases step_cases s with ⟨_, e⟩ | ⟨_, _, e⟩ | ⟨_, _, _, e⟩ | ⟨reg, v, rest, hi, hw, e⟩ | ⟨reg, _, _, _, e⟩ <;>
    rw [e] at h
  · cases h
    exact .inl rfl
  · cases h
    exact .inl (by simp)
  · cases h
    exact .inl rfl
  · rcases hostWrite_events h with he | ⟨i, c, rfl, hv, hf, hc, he⟩
    · exact .inl he
    · refine .inr ⟨_, v, rest, he, hi, hw, hf, ?_⟩
      have hcode : v.setWidth 8 = encodeCode i := hv
      exact hcode ▸ encodeCode_mem_of_callOf hc
  · cases h
    exact .inl (by simp)

end Sys2Proof.Machine
end

section
/-! PROOFS of the family 10_state.md: what the registers hold and who changes them (R10 to R26). The invariant (O60,
O59), the writers of `ACC`, `RES` and the operands (O20, O47, O48), the encoded registers (O1, O53, O54), and the host
port (O50 to O52, O57). -/

namespace Sys2Proof.Machine

/-! ### A step that runs no command (R19, R22, R36) -/

/-- What an input that runs no command leaves as it was. -/
structure KeepsResults (s t : State) : Prop where
  acc : t.acc = s.acc
  res : t.res = s.res
  sess : t.sess = s.sess
  events : t.events = s.events
  waiting : t.waiting = s.waiting

theorem KeepsResults.refl (s : State) : KeepsResults s s := ⟨rfl, rfl, rfl, rfl, rfl⟩

theorem KeepsResults.of_takeInput {s t : State} (h : KeepsResults (takeInput s) t) : KeepsResults s t :=
  ⟨h.acc, h.res, h.sess, h.events, h.waiting⟩

theorem writeReg_keepsResults (r : PortReg) (v : Word) (s : State) : KeepsResults s (writeReg r v s) := by
  cases r <;> exact ⟨rfl, rfl, rfl, rfl, rfl⟩

theorem hostRead_keepsResults (reg : Nat) (s : State) : KeepsResults s (hostRead reg s) := by
  rcases hostRead_cases reg s with ⟨v, _, e⟩ | ⟨_, e⟩ <;> rw [e] <;> exact ⟨rfl, rfl, rfl, rfl, rfl⟩

theorem unlessFaulted_raiseFault_keepsResults (f : FaultCode) (s : State) :
    KeepsResults s (unlessFaulted (raiseFault f) s) := by
  rcases unlessFaulted_cases (raiseFault f) s with ⟨_, e⟩ | ⟨_, e⟩ <;> rw [e] <;> exact ⟨rfl, rfl, rfl, rfl, rfl⟩

/-- A host write runs the command whose code it writes to `CMD`, or leaves the results as they were. -/
theorem hostWrite_command_or_keeps {reg : Nat} {v : Word} {s t : State} (h : hostWrite reg v s = .next t) :
    (∃ i, reg = 0 ∧ narrow v = encodeCode i ∧ exec i s = .next t) ∨ KeepsResults s t := by
  rcases hostWrite_cases reg v s with ⟨h0, i, hd, e⟩ | ⟨_, _, e⟩ | ⟨r, _, _, e⟩ | ⟨_, e⟩ <;> rw [e] at h
  · exact .inl ⟨i, h0, eq_encodeCode_of_decodeCode hd, h⟩
  · cases h
    exact .inr (unlessFaulted_raiseFault_keepsResults _ s)
  · cases h
    exact .inr (writeReg_keepsResults r v s)
  · cases h
    exact .inr (.refl s)

/-- A step is the reset, or a command on a block that is not waiting, or it leaves the results as they were, and then a
block that waits does not move at all. -/
theorem step_reset_or_command_or_keeps {s t : State} (h : step s = .next t) :
    (∃ rest, s.inputs = .reset :: rest ∧ t = resetBlock (takeInput s)) ∨
    (∃ v rest i, s.inputs = .write 0 v :: rest ∧ s.waiting = none ∧ narrow v = encodeCode i ∧
      exec i (takeInput s) = .next t) ∨
    (KeepsResults s t ∧ (t = s ∨ s.waiting = none)) := by
  rcases step_cases s with ⟨_, e⟩ | ⟨rest, hi, e⟩ | ⟨_, _, _, e⟩ | ⟨reg, v, rest, hi, hw, e⟩ | ⟨reg, _, _, hw, e⟩ <;>
    rw [e] at h
  · cases h
    exact .inr (.inr ⟨.refl s, .inl rfl⟩)
  · cases h
    exact .inl ⟨rest, hi, rfl⟩
  · cases h
    exact .inr (.inr ⟨.refl s, .inl rfl⟩)
  · rcases hostWrite_command_or_keeps h with ⟨i, rfl, hv, hx⟩ | hk
    · exact .inr (.inl ⟨v, rest, i, hi, hw, hv, hx⟩)
    · exact .inr (.inr ⟨hk.of_takeInput, .inr hw⟩)
  · cases h
    exact .inr (.inr ⟨(hostRead_keepsResults reg (takeInput s)).of_takeInput, .inr hw⟩)

/-! ### The shapes of results and calls (R15, R32, R33) -/

theorem parse_wf {n : Nat} (buf : List Byte) (h : n ≤ 3) : (parse n buf).wf = true := by
  unfold parse
  cases firstBadGroup n buf with
  | some g => rfl
  | none => simpa [Result.wf] using h

theorem readResult_wf {n : Nat} (buf : List Byte) (h : n ≤ 3) : (readResult n buf).wf = true := by
  unfold readResult
  split
  · exact parse_wf buf h
  · rfl

theorem ResultOf.wf {r : Result} (h : ResultOf r) : r.wf = true := by
  rcases h with rfl | rfl | ⟨n, buf, _, hn, rfl⟩
  · rfl
  · rfl
  · exact readResult_wf buf hn

theorem length_frame (opc : Word) (ps : List Word) : (frame opc ps).length = 2 + 3 * ps.length := by
  simp [frame, group, List.length_flatMap]
  omega

/-- A command's call is a write of 2, 5 or 8 bytes, a read of 3, 6 or 9, or the opening or closing of the bus. -/
theorem callOf_wf {i : Instr} {s : State} {c : BusCall} (h : callOf i s = some c) : c.wf = true := by
  cases i <;> simp only [callOf, Option.some.injEq, reduceCtorEq] at h <;> subst h
  case send0 | send1 | send2 => simp [BusCall.wf, length_frame]
  all_goals rfl

/-! ### The invariant -/

theorem inv_iff (s : State) :
    inv s = true ↔ s.res.wf = true ∧ (∀ e ∈ s.events, e.wf = true) ∧ waitingWf s = true := by
  simp [inv, and_assoc]

theorem waitingWf_of_not_waiting {s : State} (h : s.waiting = none) : waitingWf s = true := by
  simp [waitingWf, h]

/-- The event a call adds is of the spec's shape when the call is. -/
theorem logCall_events_wf {c : BusCall} {s : State} (hc : c.wf = true) (hs : ∀ e ∈ s.events, e.wf = true) :
    ∀ e ∈ (logCall c s).events, e.wf = true := by
  intro e he
  rcases List.mem_append.mp he with he | he
  · exact hs e he
  · rw [List.mem_singleton.mp he]
    simp [BusEvent.wf, hc, shapeAnswer_answerTo]

/-- A call that never returns is waited for in its place: unanswered, and last in the history. -/
theorem waitingWf_awaitReturn {c : BusCall} {s : State} {n : Nat} (hc : c.wf = true) (hf : s.fault = .noFault)
    (hs : s.sess = callSession c) (ha : answerTo c s = .never n) :
    waitingWf (awaitReturn c (logCall c s)) = true := by
  have hlast : lastUnanswered c (logCall c s).events = true := by simp [lastUnanswered, ha]
  simp only [waitingWf, awaitReturn_waiting, awaitReturn_fault, logCall_fault, awaitReturn_sess, logCall_sess,
    awaitReturn_events, hlast, hc, hf, hs, beq_self_eq_true, Bool.and_self]

/-- However the call of a command comes out, the invariant is kept. -/
theorem AfterCall.keepsInv {i : Instr} {c : BusCall} {s t : State} (h : AfterCall i c s t) (hc : c.wf = true)
    (hf : s.fault = .noFault) (hs : s.sess = callSession c) (hw : s.waiting = none) (hinv : inv s = true) :
    inv t = true := by
  obtain ⟨hres, hev, _⟩ := (inv_iff s).mp hinv
  have hlog := logCall_events_wf hc hev
  rcases h with ⟨n, ha, rfl⟩ | ⟨buf, r, _, hr, rfl⟩ | ⟨n, _, rfl⟩
  · exact (inv_iff _).mpr ⟨hres, hlog, waitingWf_awaitReturn hc hf hs ha⟩
  · exact (inv_iff _).mpr ⟨hr.wf, hlog, waitingWf_of_not_waiting hw⟩
  · exact (inv_iff _).mpr ⟨rfl, hlog, waitingWf_of_not_waiting hw⟩

/-- A command on a block that is not waiting keeps the invariant. -/
theorem exec_inv {i : Instr} {s t : State} (h : exec i s = .next t) (hw : s.waiting = none) (hinv : inv s = true) :
    inv t = true := by
  obtain ⟨hres, hev, _⟩ := (inv_iff s).mp hinv
  rcases exec_effect h with ⟨_, rfl⟩ | ⟨hf, ⟨_, a, rfl⟩ | ⟨f, _, rfl⟩ | ⟨_, _, rfl⟩ | ⟨c, hc, hs, ha⟩⟩
  · exact hinv
  · exact (inv_iff _).mpr ⟨hres, hev, waitingWf_of_not_waiting hw⟩
  · exact (inv_iff _).mpr ⟨hres, hev, waitingWf_of_not_waiting hw⟩
  · exact (inv_iff _).mpr ⟨rfl, hev, waitingWf_of_not_waiting hw⟩
  · exact ha.keepsInv (callOf_wf hc) hf hs hw hinv

/-- Settles O60: the reset clears result and waiting call, a command keeps the invariant whichever effect it has, and
every other input leaves results and events alone, and a waiting block as it is. -/
theorem stepKeepsInvariant : Obligations.StepKeepsInvariant := by
  intro s t hinv h
  obtain ⟨hres, hev, _⟩ := (inv_iff s).mp hinv
  rcases step_reset_or_command_or_keeps h with ⟨_, _, rfl⟩ | ⟨v, rest, i, _, hw, _, hx⟩ | ⟨hk, rfl | hw⟩
  · exact (inv_iff _).mpr ⟨rfl, hev, rfl⟩
  · exact exec_inv hx hw hinv
  · exact hinv
  · exact (inv_iff _).mpr ⟨hk.res ▸ hres, hk.events ▸ hev, waitingWf_of_not_waiting (hk.waiting.trans hw)⟩

/-- Settles O59: the reset state is a literal, and the invariant is computed on it. -/
theorem resetMeetsInvariant : Obligations.ResetMeetsInvariant := by
  unfold Obligations.ResetMeetsInvariant
  decide

/-! ### The writers of ACC, RES and the operands (R11 to R15, R167) -/

/-- However the call of a command comes out, `ACC`, the operands, what is to come from outside and the host's reads are
as before, and the block is not faulted if it was not. -/
theorem AfterCall.keepsRest {i : Instr} {c : BusCall} {s t : State} (h : AfterCall i c s t) :
    t.acc = s.acc ∧ t.fault = s.fault ∧
    t.opc = s.opc ∧ t.p1 = s.p1 ∧ t.p2 = s.p2 ∧ t.din = s.din ∧ t.inputs = s.inputs ∧ t.portReads = s.portReads := by
  rcases h with ⟨n, _, rfl⟩ | ⟨buf, r, _, _, rfl⟩ | ⟨n, _, rfl⟩ <;> simp

/-- A command keeps `ACC`, or it is one that makes no call, on a block that is not faulted. -/
theorem exec_acc {i : Instr} {s t : State} (h : exec i s = .next t) :
    t.acc = s.acc ∨ (s.fault = .noFault ∧ callOf i s = none) := by
  rcases exec_effect h with ⟨_, rfl⟩ | ⟨hf, ⟨hc, a, rfl⟩ | ⟨f, _, rfl⟩ | ⟨_, _, rfl⟩ | ⟨c, _, _, ha⟩⟩
  · exact .inl rfl
  · exact .inr ⟨hf, hc⟩
  · exact .inl (raiseFault_acc f s)
  · exact .inl (setRes_acc (.ok []) s)
  · obtain ⟨hacc, _⟩ := ha.keepsRest
    exact .inl hacc

/-- A command keeps `RES`, or it is one that calls the bus, on a block that is not faulted before or after. -/
theorem exec_res {i : Instr} {s t : State} (h : exec i s = .next t) :
    t.res = s.res ∨ (s.fault = .noFault ∧ t.fault = .noFault ∧ ∃ c, callOf i s = some c) := by
  rcases exec_effect h with ⟨_, rfl⟩ | ⟨hf, ⟨_, a, rfl⟩ | ⟨f, _, rfl⟩ | ⟨rfl, _, rfl⟩ | ⟨c, hc, _, ha⟩⟩
  · exact .inl rfl
  · exact .inl (setAcc_res a s)
  · exact .inl (raiseFault_res f s)
  · exact .inr ⟨hf, hf, .closeBus, rfl⟩
  · obtain ⟨_, hfault, _⟩ := ha.keepsRest
    exact .inr ⟨hf, hfault.trans hf, c, hc⟩

/-- A command that makes no call has the code of `CRCINIT`, `CRCBYTE` or `CRC8W`. -/
theorem encodeCode_of_callOf_none {i : Instr} {s : State} (h : callOf i s = none) :
    encodeCode i = 0x10 ∨ encodeCode i = 0x11 ∨ encodeCode i = 0x12 := by
  cases i with
  | crcInit | crcByte | crc8w => decide
  | _ => simp [callOf] at h

/-- Settles O20: an input that is neither the reset nor a command keeps `ACC`, and so does every command that calls the
bus. -/
theorem accChangesOnlyByCrcCommandsAndReset : Obligations.AccChangesOnlyByCrcCommandsAndReset := by
  intro s t h hne
  rcases step_reset_or_command_or_keeps h with ⟨rest, hi, _⟩ | ⟨v, rest, i, hi, _, hv, hx⟩ | ⟨hk, _⟩
  · exact .inl ⟨rest, hi⟩
  · have hcode : v.setWidth 8 = encodeCode i := hv
    rcases exec_acc hx with hacc | ⟨hf, hc⟩
    · exact absurd hacc hne
    · exact .inr ⟨v, rest, hi, hf, hcode ▸ encodeCode_of_callOf_none hc⟩
  · exact absurd hk.acc hne

/-- Settles O47: an input that is neither the reset nor a command keeps `RES`, and so does a command that makes no call
or raises a fault. -/
theorem resChangesOnlyByBusCommandsAndReset : Obligations.ResChangesOnlyByBusCommandsAndReset := by
  intro s t h hne
  rcases step_reset_or_command_or_keeps h with ⟨rest, hi, _⟩ | ⟨v, rest, i, hi, _, hv, hx⟩ | ⟨hk, _⟩
  · exact .inl ⟨rest, hi⟩
  · have hcode : v.setWidth 8 = encodeCode i := hv
    rcases exec_res hx with hres | ⟨hf, hf', c, hc⟩
    · exact absurd hres hne
    · exact .inr ⟨v, rest, hi, hf, hf', hcode ▸ encodeCode_mem_of_callOf hc⟩
  · exact absurd hk.res hne

/-- Settles O48, effect by effect. -/
theorem commandsLeaveOperandsAlone : Obligations.CommandsLeaveOperandsAlone := by
  intro i s t h
  rcases exec_effect h with ⟨_, rfl⟩ | ⟨_, ⟨_, a, rfl⟩ | ⟨f, _, rfl⟩ | ⟨_, _, rfl⟩ | ⟨c, _, _, ha⟩⟩
  · exact ⟨rfl, rfl, rfl, rfl, rfl, rfl⟩
  · exact ⟨rfl, rfl, rfl, rfl, rfl, rfl⟩
  · exact ⟨rfl, rfl, rfl, rfl, rfl, rfl⟩
  · exact ⟨rfl, rfl, rfl, rfl, rfl, rfl⟩
  · obtain ⟨_, _, hoperands⟩ := ha.keepsRest
    exact hoperands

/-! ### The encoded registers (R16, R18, R26) -/

theorem wordReg_eq_some_iff {r : Result} {k : Nat} {w : Word} :
    wordReg r k = some w ↔ ∃ ws, r = .ok ws ∧ ws[k]? = some w := by
  cases r <;> simp [wordReg]

theorem wordReg_eq_none_of_short {r : Result} {k : Nat} (h : ∀ ws, r = .ok ws → ws.length ≤ k) :
    wordReg r k = none := by
  cases r with
  | ok ws => simpa [wordReg] using h ws rfl
  | _ => rfl

/-- `ST` of a success depends on the number of its words alone. -/
theorem stReg_ok {ws : List Word} {n : Nat} (h : ws.length = n) :
    stReg (.ok ws) = 1#1 ++ BitVec.ofNat 2 n ++ 0#2 ++ 0#2 ++ 1#1 := by
  subst h
  rfl

/-- A result of the spec's shape has one of the nine values of `ST`. -/
theorem stReg_mem_of_wf {r : Result} (h : r.wf = true) :
    stReg r ∈ ([0x00, 0x81, 0xA1, 0xC1, 0xE1, 0x82, 0x84, 0x8C, 0x94] : List Byte) := by
  cases r with
  | noResult => decide
  | failTransport => decide
  | failChecksum g => revert g; decide
  | ok ws =>
    have hlen : ws.length ≤ 3 := by simpa [Result.wf] using h
    rw [stReg_ok rfl]
    generalize ws.length = n at hlen
    interval_cases n <;> decide

/-- Settles O53: the nine values by computation, no others by the shapes of results. -/
theorem statusEncodesResult : Obligations.StatusEncodesResult :=
  ⟨rfl, (stReg_ok (n := 0) rfl).trans (by decide), fun _ => (stReg_ok (n := 1) rfl).trans (by decide),
    fun _ _ => (stReg_ok (n := 2) rfl).trans (by decide), fun _ _ _ => (stReg_ok (n := 3) rfl).trans (by decide),
    rfl, rfl, rfl, rfl, fun _ h => stReg_mem_of_wf h, fun _ _ _ => wordReg_eq_some_iff⟩

/-- Settles O54. -/
theorem fltEncodesFault : Obligations.FltEncodesFault := ⟨rfl, rfl, rfl, rfl⟩

/-- Settles O1: `RES` is `None`, so no word register holds a value. -/
theorem resetLeavesSpecValues : Obligations.ResetLeavesSpecValues :=
  ⟨rfl, rfl, rfl, rfl, rfl, rfl, rfl, fun _ => rfl, rfl, rfl⟩

/-! ### Registers by number (R21) -/

theorem eq_portNumber_of_portReg {reg : Nat} {r : PortReg} (h : portReg reg = some r) : reg = portNumber r := by
  unfold portReg at h
  split at h <;> cases h <;> rfl

theorem portReg_eq_none {reg : Nat} (h : 12 ≤ reg) : portReg reg = none := by
  cases hp : portReg reg with
  | none => rfl
  | some r =>
    have hlt : portNumber r < 12 := by cases r <;> decide
    have := eq_portNumber_of_portReg hp
    omega

/-! ### A host access on a block that is not waiting (R21, R22, R41) -/

theorem takeInput_of_inputs {s : State} {a : Input} {rest : List Input} (h : s.inputs = a :: rest) :
    takeInput s = { s with inputs := rest } := by
  simp [takeInput, h]

theorem step_of_write {s : State} {reg : Nat} {v : Word} {rest : List Input} (hi : s.inputs = .write reg v :: rest)
    (hw : s.waiting = none) : step s = hostWrite reg v { s with inputs := rest } := by
  rw [← takeInput_of_inputs hi]
  simp [step, respond, hi, hw]

theorem step_of_read {s : State} {reg : Nat} {rest : List Input} (hi : s.inputs = .read reg :: rest)
    (hw : s.waiting = none) : step s = .next (hostRead reg { s with inputs := rest }) := by
  rw [← takeInput_of_inputs hi]
  simp [step, respond, hi, hw]

/-- A write to a read-only or absent register is ignored. -/
theorem hostWrite_ignored {reg : Nat} (v : Word) (s : State) (h : reg = 1 ∨ reg = 2 ∨ reg = 3 ∨ 8 ≤ reg) :
    hostWrite reg v s = .next s := by
  rcases hostWrite_cases reg v s with ⟨h0, _⟩ | ⟨h0, _⟩ | ⟨r, hr, _, e⟩ | ⟨_, e⟩
  · omega
  · omega
  · have hreg := eq_portNumber_of_portReg hr
    rw [e]
    cases r with
    | opc | p1 | p2 | din => simp only [portNumber] at hreg; omega
    | _ => rfl
  · exact e

/-- Settles O50. -/
theorem hostWriteSetsOperandOrIsIgnored : Obligations.HostWriteSetsOperandOrIsIgnored := by
  intro s reg v rest hi hw
  rw [step_of_write hi hw]
  refine ⟨?_, ?_, ?_, ?_, hostWrite_ignored v _⟩ <;> rintro rfl <;> rfl

theorem hostWrite_cmd (v : Word) (s : State) : hostWrite 0 v s = issueCode (narrow v) s := rfl

theorem issueCode_of_decodeCode {c : Byte} {i : Instr} (s : State) (h : decodeCode c = .ok i) :
    issueCode c s = exec i s := by
  simp [issueCode, h]

/-- Settles O57: the number 0 is `CMD`, and the byte written there is issued. -/
theorem stepRunsDecodedCommand : Obligations.StepRunsDecodedCommand := by
  intro s v rest i hi hw hd
  rw [step_of_write hi hw, hostWrite_cmd]
  exact issueCode_of_decodeCode _ hd

theorem hostRead_of_holds {reg : Nat} {s : State} {x : PortValue} (h : portHolds reg s = some x) :
    hostRead reg s = { s with portReads := s.portReads ++ [⟨reg, x⟩] } := by
  simp [hostRead, h]

theorem hostRead_of_not_holds {reg : Nat} {s : State} (h : portHolds reg s = none) :
    hostRead reg s =
      { s with portReads := s.portReads ++ [⟨reg, drawnValue reg s.draws⟩], draws := s.draws + 1 } := by
  simp [hostRead, h]

/-- The numbers 9, 10 and 11 hold the words of `RES`. -/
theorem portHolds_wordReg {k : Nat} (h : k < 3) (s : State) :
    portHolds (9 + k) s = (wordReg s.res k).map .word := by
  interval_cases k <;> rfl

theorem drawnValue_wordReg {k : Nat} (h : k < 3) (n : Nat) : drawnValue (9 + k) n = .word (Config.wordDraw n) := by
  interval_cases k <;> rfl

theorem sessReg_eq (v : Session) : sessReg v = if v = .opened then 0x01 else 0x00 := by
  cases v <;> rfl

/-- Settles O51, register by register: each case is what the register's number holds. -/
theorem hostReadReturnsHeldValue : Obligations.HostReadReturnsHeldValue := by
  intro s reg rest hi hw x hx
  rw [step_of_read hi hw]
  suffices hholds : portHolds reg { s with inputs := rest } = some x by rw [hostRead_of_holds hholds]
  rcases hx with ⟨rfl, rfl⟩ | ⟨rfl, rfl⟩ | ⟨rfl, rfl⟩ | ⟨rfl, rfl⟩ | ⟨rfl, rfl⟩ | ⟨rfl, rfl⟩ | ⟨rfl, rfl⟩ |
    ⟨rfl, rfl⟩ | ⟨k, ws, w, hk, rfl, hres, hword, rfl⟩
  · rfl
  · rfl
  · rw [← sessReg_eq]; rfl
  · rfl
  · rfl
  · rfl
  · rfl
  · rfl
  · rw [portHolds_wordReg hk, wordReg_eq_some_iff.mpr ⟨ws, hres, hword⟩]; rfl

/-- Settles O52: `CMD` holds nothing, nor does a word register past the words of `RES`, nor a number of no register. -/
theorem hostReadWithoutValueDraws : Obligations.HostReadWithoutValueDraws := by
  intro s reg rest hi hw x hx
  rw [step_of_read hi hw]
  suffices hdraw : portHolds reg { s with inputs := rest } = none ∧ drawnValue reg s.draws = x by
    obtain ⟨hnone, rfl⟩ := hdraw
    exact congrArg _ (hostRead_of_not_holds hnone)
  rcases hx with ⟨rfl, rfl⟩ | ⟨k, hk, rfl, hshort, rfl⟩ | ⟨hreg, rfl⟩
  · exact ⟨rfl, rfl⟩
  · have hword : wordReg s.res k = none := wordReg_eq_none_of_short hshort
    exact ⟨by rw [portHolds_wordReg hk, hword]; rfl, drawnValue_wordReg hk s.draws⟩
  · simp [portHolds, drawnValue, portReg_eq_none hreg]

end Sys2Proof.Machine
end

section
/-! PROOFS of the family 20_memory.md: what a write delivers (O39), and a bus call that never returns (O41). -/

namespace Sys2Proof.Machine

/-! ### What a write delivers (R32) -/

/-- Settles O39: only where the write did not succeed is a count of bytes recorded, and capping it at the length of the
frame leaves the front as it is. -/
theorem failedWriteDeliversAnyFront : Obligations.FailedWriteDeliversAnyFront := by
  refine ⟨fun _ _ => rfl, fun buf n => ?_⟩
  have hfront : buf.take (min n buf.length) = buf.take n := List.take_eq_take_min.symm
  exact ⟨hfront, hfront⟩

/-! ### A call that never returns (R36) -/

/-- Only a call that never returns leaves the block waiting. -/
theorem AfterCall.eq_awaitReturn {i : Instr} {c : BusCall} {s t : State} (h : AfterCall i c s t)
    (hw : s.waiting = none) (ht : t.waiting ≠ none) :
    ∃ n, answerTo c s = .never n ∧ t = awaitReturn c (logCall c s) := by
  rcases h with hnever | ⟨buf, r, _, _, rfl⟩ | ⟨n, _, rfl⟩
  · exact hnever
  · exact absurd hw ht
  · exact absurd hw ht

/-- A command that leaves the block waiting has made a call that never returns, and has done nothing else. -/
theorem exec_waiting {i : Instr} {s t : State} (h : exec i s = .next t) (hw : s.waiting = none)
    (ht : t.waiting ≠ none) : ∃ c n, answerTo c s = .never n ∧ t = awaitReturn c (logCall c s) := by
  rcases exec_effect h with ⟨_, rfl⟩ | ⟨_, ⟨_, a, rfl⟩ | ⟨f, _, rfl⟩ | ⟨_, _, rfl⟩ | ⟨c, _, _, ha⟩⟩
  · exact absurd hw ht
  · exact absurd hw ht
  · exact absurd hw ht
  · exact absurd hw ht
  · exact ⟨c, ha.eq_awaitReturn hw ht⟩

/-- A waiting block takes no input but the reset. -/
theorem step_of_waiting {s : State} {c : BusCall} (hw : s.waiting = some c)
    (hr : ∀ rest, s.inputs ≠ .reset :: rest) : step s = .next s := by
  rcases step_cases s with ⟨_, e⟩ | ⟨rest, hi, _⟩ | ⟨_, _, _, e⟩ | ⟨_, _, _, _, hnone, _⟩ | ⟨_, _, _, hnone, _⟩
  · exact e
  · exact absurd hi (hr rest)
  · exact e
  · simp [hw] at hnone
  · simp [hw] at hnone

/-- Settles O41: the command has only recorded its call and waits for it, and then the block takes no host access. -/
theorem hungCommandChangesNothingAndWaitsForever : Obligations.HungCommandChangesNothingAndWaitsForever := by
  refine ⟨fun i s t hw h ht => ?_, fun s c hw hr => step_of_waiting hw hr⟩
  obtain ⟨c, n, hnever, rfl⟩ := exec_waiting h hw ht
  exact ⟨rfl, rfl, rfl, rfl, rfl, rfl, rfl, rfl, c, n, rfl, by simp [hnever]⟩

end Sys2Proof.Machine
end

section
/-! PROOFS of the family 30_encoding.md: words and their bytes (O22), the layout of a frame (O23), and the codes of the
commands (O55, O56). -/

namespace Sys2Proof.Machine

/-! ### Words and bytes (R56) -/

theorem toNat_hiByte (w : Word) : (hiByte w).toNat = w.toNat / 256 := by
  have hlt := w.isLt
  simp only [hiByte, BitVec.extractLsb'_toNat, Nat.shiftRight_eq_div_pow]
  omega

theorem toNat_loByte (w : Word) : (loByte w).toNat = w.toNat % 256 := by
  simp [loByte]

theorem toNat_wordOf (hi lo : Byte) : (wordOf hi lo).toNat = hi.toNat * 256 + lo.toNat := by
  rw [wordOf, BitVec.toNat_append, ← Nat.shiftLeft_add_eq_or_of_lt lo.isLt, Nat.shiftLeft_eq]

@[simp] theorem wordOf_hiByte_loByte (w : Word) : wordOf (hiByte w) (loByte w) = w := by
  apply BitVec.eq_of_toNat_eq
  rw [toNat_wordOf, toNat_hiByte, toNat_loByte, Nat.div_add_mod']

@[simp] theorem hiByte_wordOf (hi lo : Byte) : hiByte (wordOf hi lo) = hi := by
  apply BitVec.eq_of_toNat_eq
  have hlo := lo.isLt
  rw [toNat_hiByte, toNat_wordOf]
  omega

@[simp] theorem loByte_wordOf (hi lo : Byte) : loByte (wordOf hi lo) = lo := by
  apply BitVec.eq_of_toNat_eq
  have hlo := lo.isLt
  rw [toNat_loByte, toNat_wordOf]
  omega

/-- Settles O22. -/
theorem wordSplitAndAssemblyAgree : Obligations.WordSplitAndAssemblyAgree :=
  ⟨fun w => ⟨toNat_hiByte w, toNat_loByte w⟩, toNat_wordOf, wordOf_hiByte_loByte,
    fun hi lo => ⟨hiByte_wordOf hi lo, loByte_wordOf hi lo⟩⟩

/-! ### The layout of a frame (R54) -/

/-- Every group has three bytes, so skipping `3k` bytes of a row of groups skips `k` of its words. -/
theorem drop_flatMap_group (ps : List Word) (k : Nat) :
    (ps.flatMap group).drop (3 * k) = (ps.drop k).flatMap group := by
  induction ps generalizing k with
  | nil => simp
  | cons p ps ih =>
    cases k with
    | zero => rfl
    | succ k => exact ih k

/-- Past the two opcode bytes and `k` groups a frame holds the groups of the other parameters. -/
theorem drop_frame (opc : Word) (ps : List Word) (k : Nat) :
    (frame opc ps).drop (2 + 3 * k) = (ps.drop k).flatMap group := by
  rw [← drop_flatMap_group, ← List.drop_drop]
  rfl

/-- Settles O23: what stands at `2 + 3k` begins with the group of parameter `k`. -/
theorem frameLayoutIsOpcodeThenGroups : Obligations.FrameLayoutIsOpcodeThenGroups := by
  refine fun opc ps => ⟨length_frame opc ps, rfl, fun k p hk => ?_⟩
  obtain ⟨hlt, rfl⟩ := List.getElem?_eq_some_iff.mp hk
  rw [drop_frame, List.drop_eq_getElem_cons hlt]
  rfl

/-! ### The codes of the commands (R58 to R60) -/

@[simp] theorem decodeCode_encodeCode (i : Instr) : decodeCode (encodeCode i) = .ok i := by
  cases i <;> rfl

theorem decodeCode_eq_ok_iff {c : Byte} {i : Instr} : decodeCode c = .ok i ↔ c = encodeCode i :=
  ⟨eq_encodeCode_of_decodeCode, fun h => h ▸ decodeCode_encodeCode i⟩

theorem decode_encode_append (i : Instr) (rest : List Byte) : decode (encode i ++ rest) = .ok (i, rest) := by
  simp [encode, decode]

/-- The decoder has one error for a byte, and it names the byte. -/
theorem eq_illegalCode_of_decodeCode {c : Byte} {e : DecodeError} (h : decodeCode c = .error e) :
    e = .illegalCode c := by
  unfold decodeCode at h
  split at h <;> cases h
  rfl

/-- A byte that is no command's code is refused by name. -/
theorem decodeCode_of_ne_encodeCode {c : Byte} (h : ∀ i, encodeCode i ≠ c) : decodeCode c = .error (.illegalCode c) := by
  cases hd : decodeCode c with
  | ok i => exact absurd (eq_encodeCode_of_decodeCode hd).symm (h i)
  | error e => rw [eq_illegalCode_of_decodeCode hd]

/-- Settles O55: the illegal bytes are counted by decoding all 256. -/
theorem codesAndCommandsCorrespond : Obligations.CodesAndCommandsCorrespond :=
  ⟨fun _ _ => decodeCode_eq_ok_iff, decode_encode_append, by decide +kernel⟩

/-- Settles O56: the first eleven bytes are the commands' codes, the last two are no command's. -/
theorem tableBytesDecode : Obligations.TableBytesDecode :=
  ⟨decodeCode_encodeCode .openSession, decodeCode_encodeCode .closeSession, decodeCode_encodeCode .crcInit,
    decodeCode_encodeCode .crcByte, decodeCode_encodeCode .crc8w, decodeCode_encodeCode .send0,
    decodeCode_encodeCode .send1, decodeCode_encodeCode .send2, decodeCode_encodeCode .read1,
    decodeCode_encodeCode .read2, decodeCode_encodeCode .read3,
    decodeCode_of_ne_encodeCode fun i => by cases i <;> decide,
    decodeCode_of_ne_encodeCode fun i => by cases i <;> decide⟩

end Sys2Proof.Machine
end

section
/-! PROOFS of the family 40_crc8.md. The bit, byte, list and word functions in their defining forms (O6 to O10), the
laws that follow from the bit step being linear over XOR and injective (O11 to O16), and the three CRC commands (O17 to
O19, O21). -/

namespace Sys2Proof.Machine

/-! ### The bit step (R70) -/

theorem crc8Bit_of_bit7 {a : Byte} (h : a[7] = true) : crc8Bit a = (a <<< 1) ^^^ crcPoly := by simp [crc8Bit, h]

theorem crc8Bit_of_not_bit7 {a : Byte} (h : a[7] = false) : crc8Bit a = a <<< 1 := by simp [crc8Bit, h]

theorem bit7_eq_decide (a : Byte) : a[7] = decide (128 ≤ a.toNat) := by
  rw [← BitVec.getLsbD_eq_getElem]
  exact BitVec.msb_eq_decide a

theorem bit7_of_ge {a : Byte} (h : 128 ≤ a.toNat) : a[7] = true := by rw [bit7_eq_decide, decide_eq_true h]

theorem not_bit7_of_lt {a : Byte} (h : a.toNat < 128) : a[7] = false := by
  rw [bit7_eq_decide, decide_eq_false (by omega)]

theorem toNat_crc8Bit_of_ge {a : Byte} (h : 128 ≤ a.toNat) : (crc8Bit a).toNat = (2 * a.toNat - 256) ^^^ 0x31 := by
  have hlt := a.isLt
  have hshift : (a <<< 1).toNat = 2 * a.toNat - 256 := by rw [BitVec.toNat_shiftLeft]; omega
  rw [crc8Bit_of_bit7 (bit7_of_ge h), BitVec.toNat_xor, hshift]
  rfl

theorem toNat_crc8Bit_of_lt {a : Byte} (h : a.toNat < 128) : (crc8Bit a).toNat = 2 * a.toNat := by
  rw [crc8Bit_of_not_bit7 (not_bit7_of_lt h), BitVec.toNat_shiftLeft]
  omega

/-- Settles O6. -/
theorem crcBitStepShiftsAndReduces : Obligations.CrcBitStepShiftsAndReduces :=
  ⟨fun _ => toNat_crc8Bit_of_ge, fun _ => toNat_crc8Bit_of_lt, by decide⟩

/-! ### Linearity and injectivity of the bit step (R77) -/

theorem serialStep_eq (a : Byte) (x : Bool) :
    serialStep a x = (a <<< 1) ^^^ (if a[7] ^^ x then crcPoly else 0#8) := by
  rw [serialStep, BitVec.getLsbD_eq_getElem (by decide)]
  split <;> simp

theorem serialStep_false (a : Byte) : serialStep a false = crc8Bit a := by simp [serialStep, crc8Bit]

/-- The shift and the choice of the polynomial are each linear over XOR, so the serial step is. -/
theorem serialStep_xor (a b : Byte) (x y : Bool) :
    serialStep (a ^^^ b) (x ^^ y) = serialStep a x ^^^ serialStep b y := by
  have hpoly (p q : Bool) : (if p ^^ q then crcPoly else 0#8) =
      (if p then crcPoly else 0#8) ^^^ (if q then crcPoly else 0#8) := by cases p <;> cases q <;> rfl
  have hbit : ((a ^^^ b)[7] ^^ (x ^^ y)) = ((a[7] ^^ x) ^^ (b[7] ^^ y)) := by
    simp only [BitVec.getElem_xor, Bool.xor_assoc, Bool.xor_left_comm]
  rw [serialStep_eq, hbit, hpoly, BitVec.shiftLeft_xor_distrib, serialStep_eq, serialStep_eq]
  ac_rfl

/-- The bit step is linear over XOR (R77 (b)). -/
theorem crc8Bit_xor (a b : Byte) : crc8Bit (a ^^^ b) = crc8Bit a ^^^ crc8Bit b := by
  simpa only [Bool.xor_false, serialStep_false] using serialStep_xor a b false false

/-- The bit shifted out comes back as bit 0, so no bit is lost. -/
theorem crc8Bit_bit0 (a : Byte) : (crc8Bit a)[0] = a[7] := by
  cases h : a[7]
  · simp [crc8Bit_of_not_bit7 h]
  · simp [crc8Bit_of_bit7 h, crcPoly]

theorem eq_zero_of_crc8Bit_eq_zero {a : Byte} (h : crc8Bit a = 0#8) : a = 0#8 := by
  have h7 : a[7] = false := by simpa [h] using (crc8Bit_bit0 a).symm
  have hdouble := toNat_crc8Bit_of_lt (a := a) (by simpa [bit7_eq_decide] using h7)
  rw [h, BitVec.toNat_zero] at hdouble
  exact BitVec.eq_of_toNat_eq (by rw [BitVec.toNat_zero]; omega)

theorem crc8Bit_injective : Function.Injective crc8Bit := fun a b h => by
  rw [← BitVec.xor_eq_zero_iff] at h ⊢
  exact eq_zero_of_crc8Bit_eq_zero (crc8Bit_xor a b ▸ h)

/-! ### The byte step (R71) -/

theorem crc8Bits_eq_iterate (n : Nat) : crc8Bits n = crc8Bit^[n] := by
  induction n with
  | zero => rfl
  | succ n ih => funext a; exact congrFun ih (crc8Bit a)

theorem crc8Bits_succ (n : Nat) (a : Byte) : crc8Bits (n + 1) a = crc8Bit (crc8Bits n a) := by
  simp only [crc8Bits_eq_iterate, Function.iterate_succ_apply']

theorem crc8Bits_xor (n : Nat) (a b : Byte) : crc8Bits n (a ^^^ b) = crc8Bits n a ^^^ crc8Bits n b := by
  induction n with
  | zero => rfl
  | succ n ih => simp only [crc8Bits_succ, ih, crc8Bit_xor]

theorem crc8Bits_injective (n : Nat) : Function.Injective (crc8Bits n) :=
  crc8Bits_eq_iterate n ▸ crc8Bit_injective.iterate n

theorem crc8Byte_xor (a a' b b' : Byte) :
    crc8Byte (a ^^^ a') (b ^^^ b') = crc8Byte a b ^^^ crc8Byte a' b' := by
  simp only [crc8Byte, ← crc8Bits_xor]
  ac_rfl

@[simp] theorem crc8Byte_self (a : Byte) : crc8Byte a a = 0x00 := by
  rw [crc8Byte, BitVec.xor_self]
  rfl

/-- From every accumulator the byte step is a permutation of the bytes: it is injective, and the bytes are finite. -/
theorem crc8Byte_bijective (a : Byte) : Function.Bijective (crc8Byte a) := by
  have : Finite Byte := .of_injective _ BitVec.toFin_injective
  refine Finite.injective_iff_bijective.mp fun b b' h => ?_
  simpa using crc8Bits_injective 8 h

/-- Settles O7. -/
theorem crcByteStepIsEightBitSteps : Obligations.CrcByteStepIsEightBitSteps :=
  ⟨fun _ _ => rfl, by decide⟩

/-- Settles O14: the byte step looks at `a ^^^ b` alone, and from accumulator 0 it is a bijection. -/
theorem crcTableIsPermutation : Obligations.CrcTableIsPermutation :=
  ⟨fun a b => by simp [crc8Byte], (crc8Byte_bijective 0x00).existsUnique⟩

/-! ### The bit-serial form (R76) -/

/-- A serial step whose input bit is bit 7 of a byte XORed into the accumulator cancels that bit, and shifts the rest of
the byte up to meet the next step. -/
theorem serialStep_xor_bit7 (c d : Byte) : serialStep (c ^^^ d) d[7] = crc8Bit c ^^^ (d <<< 1) := by
  simpa [serialStep_false, serialStep_eq d] using serialStep_xor c d false d[7]

/-- After `n` of the eight bits the serial form is `n` bit steps of `a ^^^ b`, with the bits of `b` not taken yet still
to be cancelled. -/
theorem foldl_serialStep (a b : Byte) {n : Nat} (hn : n ≤ 8) :
    ((List.range n).map (7 - ·)).foldl (fun r k => serialStep r (b.getLsbD k)) a =
      crc8Bits n (a ^^^ b) ^^^ (b <<< n) := by
  induction n with
  | zero => simp [crc8Bits]
  | succ n ih =>
    have hbit : b.getLsbD (7 - n) = (b <<< n)[7] := by
      have h7 : ¬ 7 < n := by omega
      simp [BitVec.getElem_shiftLeft, h7, BitVec.getLsbD_eq_getElem (show 7 - n < 8 by omega)]
    simp only [List.range_succ, List.map_append, List.foldl_append, ih (by omega), List.map_cons, List.map_nil,
      List.foldl_cons, List.foldl_nil, hbit, serialStep_xor_bit7, crc8Bits_succ, BitVec.shiftLeft_add]

/-- Settles O11: after all eight bits nothing of `b` is left to cancel. -/
theorem crcByteStepEqualsBitSerialForm : Obligations.CrcByteStepEqualsBitSerialForm := fun a b =>
  calc crc8Byte a b = crc8Bits 8 (a ^^^ b) ^^^ (b <<< 8) := by
        rw [BitVec.shiftLeft_eq_zero le_rfl, BitVec.xor_zero, crc8Byte]
    _ = crc8Serial a b := (foldl_serialStep a b le_rfl).symm

/-! ### Lists, words and groups (R72, R74, R75) -/

theorem crc8_append_singleton (bs : List Byte) (b : Byte) : crc8 (bs ++ [b]) = crc8Byte (crc8 bs) b := by
  simp [crc8]

/-- Settles O8. -/
theorem crcOfListFoldsFromFF : Obligations.CrcOfListFoldsFromFF := ⟨rfl, crc8_append_singleton⟩

/-- Settles O9. -/
theorem crcOfWordTakesHighByteFirst : Obligations.CrcOfWordTakesHighByteFirst :=
  ⟨fun _ => ⟨rfl, rfl⟩, by decide +kernel⟩

theorem groupValid_iff {b0 b1 c : Byte} : groupValid b0 b1 c = true ↔ crc8 [b0, b1] = c := beq_iff_eq

/-- Settles O10. -/
theorem groupValidWhenChecksumMatches : Obligations.GroupValidWhenChecksumMatches := fun _ _ _ => groupValid_iff

/-- Settles O13: the byte step of a byte with itself is that of zero. -/
theorem crcResidueIsZero : Obligations.CrcResidueIsZero := fun bs => by
  rw [crc8_append_singleton, crc8Byte_self]

/-- A change of two bytes changes their checksum by the byte steps of the change alone, from accumulator 0. -/
theorem crc8_pair_xor (b0 b1 d0 d1 : Byte) :
    crc8 [b0 ^^^ d0, b1 ^^^ d1] = crc8 [b0, b1] ^^^ crc8Byte (crc8Byte 0 d0) d1 := by
  have h (b d : Byte) : crc8Byte crcStart (b ^^^ d) = crc8Byte crcStart b ^^^ crc8Byte 0 d := by
    simpa using crc8Byte_xor crcStart 0 b d
  simp only [crc8, List.foldl_cons, List.foldl_nil, ← crc8Byte_xor, h]

theorem crc8Word_xor (u v : Word) :
    crc8Word (u ^^^ v) = crc8Word u ^^^ crc8Byte (crc8Byte 0 (hiByte v)) (loByte v) := by
  simp only [crc8Word, hiByte, loByte, BitVec.extractLsb'_xor, crc8_pair_xor]

theorem crc8Word_zero : crc8Word 0#16 = 0x81 := by decide +kernel

/-- Settles O12: the checksum of `v` is that of the zero word changed by `v`. -/
theorem crcOfWordIsAffine : Obligations.CrcOfWordIsAffine := fun u v => by
  have hv : crc8Word v = 0x81 ^^^ crc8Byte (crc8Byte 0 (hiByte v)) (loByte v) := by
    rw [← crc8Word_zero, ← crc8Word_xor, BitVec.zero_xor]
  rw [crc8Word_xor, hv, BitVec.xor_assoc, BitVec.xor_comm 0x81, BitVec.xor_assoc, BitVec.xor_self, BitVec.xor_zero]

/-- Settles O15: the checksum is the byte step of the low byte from the accumulator the high byte leaves. -/
theorem eachChecksumOncePerHighByte : Obligations.EachChecksumOncePerHighByte := fun hi c => by
  simp only [crc8Word, hiByte_wordOf, loByte_wordOf]
  exact (crc8Byte_bijective (crc8Byte crcStart hi)).existsUnique c

/-! ### Errors in a group (R77 (e)) -/

/-- What an error pattern on the 24 bits of a group adds to the difference between the checksum computed and the one
received. -/
def syndrome (e : BitVec 24) : Byte :=
  crc8Byte (crc8Byte 0 (e.extractLsb' 16 8)) (e.extractLsb' 8 8) ^^^ e.extractLsb' 0 8

/-- An error pattern on a valid group goes undetected exactly when its syndrome is zero. -/
theorem groupValid_xor_iff {g : BitVec 24} (e : BitVec 24)
    (h : groupValid (g.extractLsb' 16 8) (g.extractLsb' 8 8) (g.extractLsb' 0 8) = true) :
    groupValid ((g ^^^ e).extractLsb' 16 8) ((g ^^^ e).extractLsb' 8 8) ((g ^^^ e).extractLsb' 0 8) = true ↔
      syndrome e = 0#8 := by
  rw [groupValid_iff] at h ⊢
  simp only [BitVec.extractLsb'_xor, crc8_pair_xor, h, BitVec.xor_right_inj, syndrome, BitVec.xor_eq_zero_iff]

theorem syndrome_xor (d e : BitVec 24) : syndrome (d ^^^ e) = syndrome d ^^^ syndrome e := by
  have h (a b : Byte) : crc8Byte 0 (a ^^^ b) = crc8Byte 0 a ^^^ crc8Byte 0 b := crc8Byte_xor 0 0 a b
  simp only [syndrome, BitVec.extractLsb'_xor, h, crc8Byte_xor]
  ac_rfl

/-- A single wrong bit at position `k` leaves the remainder of `x ^ k`. -/
theorem syndrome_twoPow : ∀ k < 24, syndrome (BitVec.twoPow 24 k) = crc8Bits k 1 := by decide +kernel

/-- The error pattern of the positions `l`. -/
def bitsAt (l : List Nat) : BitVec 24 := l.foldr (fun k e => BitVec.twoPow 24 k ^^^ e) 0#24

theorem bitsAt_cons (k : Nat) (l : List Nat) : bitsAt (k :: l) = BitVec.twoPow 24 k ^^^ bitsAt l := rfl

theorem getLsbD_bitsAt {l : List Nat} (hl : l.Nodup) {i : Nat} (hi : i < 24) :
    (bitsAt l).getLsbD i = decide (i ∈ l) := by
  induction l with
  | nil => simp [bitsAt]
  | cons k l ih =>
    obtain ⟨hk, hl⟩ := List.nodup_cons.mp hl
    rw [bitsAt_cons, BitVec.getLsbD_xor, ih hl, BitVec.getLsbD_twoPow]
    by_cases h : k = i
    · subst h; simp [hi, hk]
    · simp [h, Ne.symm h]

/-- Every error pattern is that of the positions of its bits. -/
theorem bitsAt_filter (e : BitVec 24) : bitsAt ((List.range 24).filter fun k => e.getLsbD k) = e := by
  refine BitVec.eq_of_getLsbD_eq fun i hi => ?_
  rw [getLsbD_bitsAt (List.nodup_range.filter _) hi]
  simp [hi]

/-- Whether a byte has an odd number of ones. -/
def oddOnes (a : Byte) : Bool := a[0] ^^ a[1] ^^ a[2] ^^ a[3] ^^ a[4] ^^ a[5] ^^ a[6] ^^ a[7]

theorem oddOnes_xor (a b : Byte) : oddOnes (a ^^^ b) = (oddOnes a ^^ oddOnes b) := by
  have : Std.Commutative Bool.xor := ⟨Bool.xor_comm⟩
  simp only [oddOnes, BitVec.getElem_xor]
  ac_rfl

/-- The polynomial with its ninth bit has four ones, so the bit step keeps the parity. -/
theorem oddOnes_crc8Bit (a : Byte) : oddOnes (crc8Bit a) = oddOnes a := by
  cases h : a[7]
  · simp [crc8Bit_of_not_bit7 h, oddOnes, h]
  · simp [crc8Bit_of_bit7 h, oddOnes, h, crcPoly]

theorem oddOnes_crc8Bits (n : Nat) (a : Byte) : oddOnes (crc8Bits n a) = oddOnes a := by
  induction n with
  | zero => rfl
  | succ n ih => rw [crc8Bits_succ, oddOnes_crc8Bit, ih]

theorem oddOnes_syndrome_bitsAt {l : List Nat} (h : ∀ k ∈ l, k < 24) :
    oddOnes (syndrome (bitsAt l)) = decide (l.length % 2 = 1) := by
  induction l with
  | nil => decide +kernel
  | cons k l ih =>
    obtain ⟨hk, hl⟩ := List.forall_mem_cons.mp h
    have hone : oddOnes 1 = true := rfl
    rw [bitsAt_cons, syndrome_xor, syndrome_twoPow k hk, oddOnes_xor, oddOnes_crc8Bits, hone, ih hl, Bool.true_xor,
      ← decide_not, List.length_cons, decide_eq_decide]
    omega

/-- Fewer than 24 bit steps never bring 1 back to itself. -/
theorem crc8Bits_one_ne_one : ∀ d < 24, d ≠ 0 → crc8Bits d 1 ≠ 1 := by decide +kernel

/-- Two wrong bits have different remainders: the bit step is injective, so equal ones would bring 1 back to itself. -/
theorem syndrome_pair_ne_zero {i j : Nat} (hij : i < j) (hj : j < 24) : syndrome (bitsAt [i, j]) ≠ 0#8 := by
  have hsyn : syndrome (bitsAt [i, j]) = crc8Bits i 1 ^^^ crc8Bits j 1 := by
    rw [← syndrome_twoPow i (hij.trans hj), ← syndrome_twoPow j hj, ← syndrome_xor, bitsAt_cons, bitsAt_cons,
      bitsAt, List.foldr_nil, BitVec.xor_zero]
  intro h
  rw [hsyn, BitVec.xor_eq_zero_iff] at h
  have hshift : crc8Bits j 1 = crc8Bits i (crc8Bits (j - i) 1) := by
    rw [crc8Bits_eq_iterate, crc8Bits_eq_iterate, crc8Bits_eq_iterate, ← Function.iterate_add_apply,
      Nat.add_sub_cancel' hij.le]
  exact crc8Bits_one_ne_one (j - i) (by omega) (by omega) (crc8Bits_injective i (h.trans hshift)).symm

/-- One or three wrong bits are seen by parity, two by their different remainders. -/
theorem syndrome_bitsAt_ne_zero {l : List Nat} (hlt : l.Pairwise (· < ·)) (h24 : ∀ k ∈ l, k < 24)
    (h1 : 1 ≤ l.length) (h3 : l.length ≤ 3) : syndrome (bitsAt l) ≠ 0#8 := by
  rcases Nat.mod_two_eq_zero_or_one l.length with heven | hodd
  · obtain ⟨i, j, rfl⟩ := List.length_eq_two.mp (by omega : l.length = 2)
    exact syndrome_pair_ne_zero (by simpa using hlt) (h24 j (by simp))
  · intro h
    have hpar := oddOnes_syndrome_bitsAt h24
    rw [h, hodd] at hpar
    exact absurd hpar (by decide)

/-- Settles O16: the syndrome of one to three wrong bits is not zero. -/
theorem upToThreeBitErrorsInGroupDetected : Obligations.UpToThreeBitErrorsInGroupDetected := by
  intro g e hg h1 h3
  rw [List.countP_eq_length_filter] at h1 h3
  have hsyn := syndrome_bitsAt_ne_zero (List.pairwise_lt_range.filter _)
    (fun k hk => List.mem_range.mp (List.mem_filter.mp hk).1) h1 h3
  rw [bitsAt_filter] at hsyn
  exact Bool.eq_false_iff.mpr fun h => hsyn ((groupValid_xor_iff e hg).mp h)

/-! ### The commands (R78 to R80) -/

/-- A command that writes `ACC` alone: ignored while faulted, else `ACC` takes its value. -/
theorem unlessFaulted_setAcc (a : State → Byte) (s : State) :
    (s.fault ≠ .noFault → (.next (unlessFaulted (fun t => setAcc (a t) t) s) : Outcome) = .next s) ∧
    (s.fault = .noFault →
      (.next (unlessFaulted (fun t => setAcc (a t) t) s) : Outcome) = .next { s with acc := a s }) :=
  ⟨fun h => by rw [unlessFaulted_of_faulted h], fun h => by rw [unlessFaulted_of_noFault h]; rfl⟩

/-- Settles O17. -/
theorem crcInitSetsStartValue : Obligations.CrcInitSetsStartValue := unlessFaulted_setAcc fun _ => crcStart

/-- Settles O18. -/
theorem crcByteFeedsDin : Obligations.CrcByteFeedsDin := unlessFaulted_setAcc fun t => crc8Byte t.acc t.din

theorem exec_crc8w (s : State) :
    (s.fault ≠ .noFault → exec .crc8w s = .next s) ∧
    (s.fault = .noFault → exec .crc8w s = .next { s with acc := crc8Word s.p1 }) :=
  unlessFaulted_setAcc (fun t => crc8Word t.p1) s

theorem exec_crcByte_of_noFault {s t : State} (h : exec .crcByte s = .next t) (hf : s.fault = .noFault) :
    t = { s with acc := crc8Byte s.acc s.din } :=
  (Host.Outcome.next.inj (((crcByteFeedsDin s).2 hf).symm.trans h)).symm

/-- Settles O19: the states of the three commands are followed one after the other. -/
theorem crc8wIsChecksumOfP1 : Obligations.Crc8wIsChecksumOfP1 := by
  refine fun s => ⟨(exec_crc8w s).1, fun hf => ⟨(exec_crc8w s).2 hf, fun t u v ht hu hv => ?_⟩⟩
  obtain rfl := Host.Outcome.next.inj (((crcInitSetsStartValue s).2 hf).symm.trans ht)
  obtain rfl := exec_crcByte_of_noFault hu hf
  obtain rfl := exec_crcByte_of_noFault hv hf
  exact (exec_crc8w s).2 hf

theorem eq_setAcc_of_unlessFaulted {a : State → Byte} {s t : State}
    (h : unlessFaulted (fun u => setAcc (a u) u) s = t) : t = { s with acc := t.acc } := by
  subst h
  rcases unlessFaulted_cases (fun u => setAcc (a u) u) s with ⟨_, e⟩ | ⟨_, e⟩
  · rw [e]; rfl
  · rw [e]

/-- Settles O21. -/
theorem crcCommandsChangeAccOnly : Obligations.CrcCommandsChangeAccOnly := by
  rintro i s t (rfl | rfl | rfl) h
  · exact eq_setAcc_of_unlessFaulted (a := fun _ => crcStart) (Host.Outcome.next.inj h)
  · exact eq_setAcc_of_unlessFaulted (a := fun u => crc8Byte u.acc u.din) (Host.Outcome.next.inj h)
  · exact eq_setAcc_of_unlessFaulted (a := fun u => crc8Word u.p1) (Host.Outcome.next.inj h)

end Sys2Proof.Machine
end

section
/-! PROOFS of the family 41_framer.md: the three sends path by path (O28, O29, O30) and their frame (O31), and the round
trip of a `SEND2` and a `READ2` (O36), for which the parser is shown to undo the framer's groups (R92). -/

namespace Sys2Proof.Machine

/-! ### One bus call behind both guards (R31 to R36, R113, R148) -/

section guarded

variable {c : BusCall} {onOk : List Byte → State → State} {onFail body : State → State} {s : State}

theorem busCall_of_ok {buf : List Byte} (h : answerTo c s = .ok buf) :
    busCall c onOk onFail s = onOk buf (logCall c s) := by simp [busCall, h]

theorem busCall_of_fail {n : Nat} (h : answerTo c s = .fail n) :
    busCall c onOk onFail s = onFail (logCall c s) := by simp [busCall, h]

theorem busCall_of_never {n : Nat} (h : answerTo c s = .never n) :
    busCall c onOk onFail s = awaitReturn c (logCall c s) := by simp [busCall, h]

theorem unlessFaulted_whenOpen_of_closed (hf : s.fault = .noFault) (hc : s.sess = .closed) :
    unlessFaulted (whenOpen body) s = raiseFault .notOpen s := by
  rw [unlessFaulted_of_noFault hf, whenOpen_of_closed hc]

theorem unlessFaulted_whenOpen_of_opened (hf : s.fault = .noFault) (ho : s.sess = .opened) :
    unlessFaulted (whenOpen body) s = body s := by
  rw [unlessFaulted_of_noFault hf, whenOpen_of_opened ho]

end guarded

/-! ### The sends (R85 to R91) -/

/-- A send as an equation per path: ignored while faulted, `NotOpen` while Closed, and while Open by the answer to the
one write of the frame. -/
theorem sendFrame_paths (ps : State → List Word) (s : State) :
    (s.fault ≠ .noFault → (.next (sendFrame ps s) : Outcome) = .next s) ∧
    (s.fault = .noFault → s.sess = .closed →
      (.next (sendFrame ps s) : Outcome) = .next { s with fault := .notOpen }) ∧
    (s.fault = .noFault → s.sess = .opened → ∀ c : BusCall, c = .write (frame s.opc (ps s)) →
      (∀ b, answerTo c s = .ok b → (.next (sendFrame ps s) : Outcome) = .next { logCall c s with res := .ok [] }) ∧
      (∀ n, answerTo c s = .fail n →
        (.next (sendFrame ps s) : Outcome) = .next { logCall c s with res := .failTransport }) ∧
      (∀ n, answerTo c s = .never n →
        (.next (sendFrame ps s) : Outcome) = .next { logCall c s with waiting := some c })) := by
  refine ⟨fun hf => congrArg _ (unlessFaulted_of_faulted hf),
    fun hf hc => congrArg _ (unlessFaulted_whenOpen_of_closed hf hc), fun hf ho c hc => ?_⟩
  rw [sendFrame, unlessFaulted_whenOpen_of_opened hf ho, ← hc]
  exact ⟨fun _ ha => congrArg _ (busCall_of_ok ha), fun _ ha => congrArg _ (busCall_of_fail ha),
    fun _ ha => congrArg _ (busCall_of_never ha)⟩

/-- Settles O28. -/
theorem send0SendsBareOpcode : Obligations.Send0SendsBareOpcode := sendFrame_paths fun _ => []

/-- Settles O29. -/
theorem send1SendsOneChecksummedWord : Obligations.Send1SendsOneChecksummedWord := sendFrame_paths fun t => [t.p1]

/-- Settles O30. -/
theorem send2SendsTwoChecksummedWords : Obligations.Send2SendsTwoChecksummedWords :=
  sendFrame_paths fun t => [t.p1, t.p2]

/-- Settles O31: each of the three is a send of its own parameters, and of the answers to the write nothing is said. -/
theorem sendsWriteOneFrameAndResOnly : Obligations.SendsWriteOneFrameAndResOnly := by
  intro i ps s t hi h
  obtain ⟨f, rfl, rfl⟩ : ∃ f : State → List Word, f s = ps ∧ sendFrame f s = t := by
    rcases hi with ⟨rfl, rfl⟩ | ⟨rfl, rfl⟩ | ⟨rfl, rfl⟩
    · exact ⟨fun _ => [], rfl, Host.Outcome.next.inj h⟩
    · exact ⟨fun u => [u.p1], rfl, Host.Outcome.next.inj h⟩
    · exact ⟨fun u => [u.p1, u.p2], rfl, Host.Outcome.next.inj h⟩
  rcases sendFrame_cases f s with ⟨hf, e⟩ | ⟨hf, hc, e⟩ | ⟨hf, ho, ⟨_, _, e⟩ | ⟨_, _, e⟩ | ⟨_, _, e⟩⟩
  · exact .inl ⟨hf, e⟩
  · exact .inr (.inl ⟨hf, hc, e⟩)
  · exact .inr (.inr ⟨hf, ho, .inl e⟩)
  · exact .inr (.inr ⟨hf, ho, .inr (.inl e)⟩)
  · exact .inr (.inr ⟨hf, ho, .inr (.inr e)⟩)

/-! ### The parser on the framer's groups (R92, R98 to R100) -/

/-- Byte `3i + j` of a row of groups is byte `j` of group `i`. -/
theorem byteAt_flatMap_group {ws : List Word} {i j : Nat} (hi : i < ws.length) (hj : j < 3) :
    byteAt (ws.flatMap group) (groupBytes * i + j) = byteAt (group ws[i]) j := by
  have hdrop : byteAt (ws.flatMap group) (groupBytes * i + j) = byteAt ((ws.flatMap group).drop (3 * i)) j := by
    simp [byteAt, groupBytes]
  rw [hdrop, drop_flatMap_group, List.drop_eq_getElem_cons hi, List.flatMap_cons]
  exact List.getD_append _ _ _ _ hj

theorem wordAt_flatMap_group {ws : List Word} {i : Nat} (hi : i < ws.length) :
    wordAt (ws.flatMap group) i = ws[i] := by
  have h0 := byteAt_flatMap_group hi (j := 0) (by decide)
  have h1 := byteAt_flatMap_group hi (j := 1) (by decide)
  rw [Nat.add_zero] at h0
  rw [wordAt, h0, h1]
  exact wordOf_hiByte_loByte ws[i]

theorem groupBad_flatMap_group {ws : List Word} {i : Nat} (hi : i < ws.length) :
    groupBad (ws.flatMap group) i = false := by
  have h0 := byteAt_flatMap_group hi (j := 0) (by decide)
  have h1 := byteAt_flatMap_group hi (j := 1) (by decide)
  have h2 := byteAt_flatMap_group hi (j := 2) (by decide)
  rw [Nat.add_zero] at h0
  have hvalid : groupValid (hiByte ws[i]) (loByte ws[i]) (crc8Word ws[i]) = true := groupValid_iff.mpr rfl
  rw [groupBad, h0, h1, h2]
  exact congrArg (!·) hvalid

theorem firstBadGroup_eq_none_of_valid {n : Nat} {buf : List Byte} (h : ∀ i < n, groupBad buf i = false) :
    firstBadGroup n buf = none := by
  refine List.find?_eq_none.mpr fun i _ => ?_
  simpa using h i.val

/-- The parser gives back the words of which the framer made the groups. -/
theorem parse_flatMap_group (ws : List Word) : parse ws.length (ws.flatMap group) = .ok ws := by
  rw [parse, firstBadGroup_eq_none_of_valid fun _ hi => groupBad_flatMap_group hi]
  refine congrArg Result.ok (List.ext_getElem (by simp) fun i _ hi => ?_)
  simpa using wordAt_flatMap_group hi

/-- A response that is a frame without its opcode is read as the frame's parameters. -/
theorem readResult_drop_frame (opc : Word) (ps : List Word) :
    readResult ps.length ((frame opc ps).drop 2) = .ok ps := by
  have hlen : ((frame opc ps).drop 2).length = groupBytes * ps.length := by
    simp [length_frame, groupBytes]
  rw [readResult, if_pos hlen]
  exact parse_flatMap_group ps

/-! ### The round trip (R92) -/

theorem readWords_of_ok {n : Nat} {s : State} {buf : List Byte} (hf : s.fault = .noFault) (ho : s.sess = .opened)
    (h : answerTo (.read (groupBytes * n)) s = .ok buf) :
    readWords n s = setRes (readResult n buf) (logCall (.read (groupBytes * n)) s) := by
  rw [readWords, unlessFaulted_whenOpen_of_opened hf ho, busCall_of_ok h]

/-- Settles O36: the two scripted answers are used up one after the other, and the second is a frame without its
opcode. -/
theorem send2ThenRead2ReturnsParameters : Obligations.Send2ThenRead2ReturnsParameters := by
  intro s b rest hf ho ha
  have hta : (logCall (.write (frame s.opc [s.p1, s.p2])) s).answers =
      .ok ((frame s.opc [s.p1, s.p2]).drop 2) :: rest := by simp [ha]
  obtain ⟨_, _, hopened⟩ := send2SendsTwoChecksummedWords s
  obtain ⟨hsend, _, _⟩ := hopened hf ho _ rfl
  exact ⟨_, _, hsend [] (answerTo_scripted _ ha), rfl,
    congrArg Host.Outcome.next (readWords_of_ok (n := 2) hf ho (answerTo_scripted _ hta)),
    readResult_drop_frame s.opc [s.p1, s.p2], congrArg List.tail hta⟩

end Sys2Proof.Machine
end

section
/-! PROOFS of the family 42_parser.md: the parser on a response of groups (O24, O25, O27) and on any bytes (O26), the
three reads path by path (O32, O33, O34) and their frame (O35), and a corrupted response through a read (O37). -/

namespace Sys2Proof.Machine

/-! ### The groups of a response (R38, R98, R99) -/

/-- The bytes of a response whose groups are `gs`, each two data bytes and a checksum, in wire order (R38). -/
def response (gs : List (Byte × Byte × Byte)) : List Byte := gs.flatMap fun g => [g.1, g.2.1, g.2.2]

section

variable {gs : List (Byte × Byte × Byte)} {i : Nat} {g : Byte × Byte × Byte}

theorem length_response (gs : List (Byte × Byte × Byte)) : (response gs).length = groupBytes * gs.length := by
  simp [response, List.length_flatMap, groupBytes, Nat.mul_comm]

/-- Byte `3i + j` of a response is byte `j` of group `i`. -/
theorem byteAt_response {j : Nat} (h : gs[i]? = some g) (hj : j < 3) :
    byteAt (response gs) (groupBytes * i + j) = byteAt [g.1, g.2.1, g.2.2] j := by
  induction i generalizing gs with
  | zero =>
    obtain ⟨tl, rfl⟩ : ∃ tl, gs = g :: tl := by
      cases gs with
      | nil => simp at h
      | cons x tl => exact ⟨tl, by simpa using h⟩
    rw [Nat.mul_zero, Nat.zero_add]
    exact List.getD_append [g.1, g.2.1, g.2.2] (response tl) 0 j hj
  | succ i ih =>
    cases gs with
    | nil => simp at h
    | cons x tl =>
      have hpos : groupBytes * (i + 1) + j = groupBytes * i + j + 1 + 1 + 1 := by simp only [groupBytes]; omega
      rw [hpos]
      exact ih (by simpa using h)

theorem wordAt_response (h : gs[i]? = some g) : wordAt (response gs) i = g.1 ++ g.2.1 := by
  have h0 := byteAt_response h (j := 0) (by decide)
  rw [Nat.add_zero] at h0
  rw [wordAt, h0, byteAt_response h (by decide)]
  rfl

theorem groupBad_response (h : gs[i]? = some g) :
    groupBad (response gs) i = !groupValid g.1 g.2.1 g.2.2 := by
  have h0 := byteAt_response h (j := 0) (by decide)
  rw [Nat.add_zero] at h0
  rw [groupBad, h0, byteAt_response h (by decide), byteAt_response h (by decide)]
  rfl

theorem groupBad_response_of_valid (h : gs[i]? = some g) (hv : crc8 [g.1, g.2.1] = g.2.2) :
    groupBad (response gs) i = false := by
  rw [groupBad_response h, groupValid_iff.mpr hv]
  rfl

theorem groupBad_response_of_invalid (h : gs[i]? = some g) (hv : crc8 [g.1, g.2.1] ≠ g.2.2) :
    groupBad (response gs) i = true := by
  rw [groupBad_response h, Bool.eq_false_iff.mpr (mt groupValid_iff.mp hv)]
  rfl

end

/-! ### The judgement of the parser (R98 to R100) -/

/-- The scan of the groups stops at the lowest invalid one: those it passed are the groups before it (D13). -/
theorem firstBadGroup_eq_some {n : Nat} {buf : List Byte} {k : Fin 3} (hk : k.val < n)
    (hbad : groupBad buf k.val = true) (hbefore : ∀ j < k.val, groupBad buf j = false) :
    firstBadGroup n buf = some k := by
  have hsplit : ∀ k : Fin 3, groupIndexes = groupIndexes.take k ++ k :: groupIndexes.drop (k + 1) := by decide
  have hlt : ∀ k : Fin 3, ∀ j ∈ groupIndexes.take k, j.val < k.val := by decide
  refine List.find?_eq_some_iff_append.mpr ⟨by simp [hk, hbad], _, _, hsplit k, fun j hj => ?_⟩
  simp [hbefore j (hlt k j hj)]

theorem lt_of_firstBadGroup_eq_some {n : Nat} {buf : List Byte} {k : Fin 3} (h : firstBadGroup n buf = some k) :
    k.val < n := by
  have hfound := List.find?_some h
  simp only [Bool.and_eq_true, decide_eq_true_eq] at hfound
  exact hfound.1

/-- Settles O24: no group is invalid, and word `i` is that of group `i`. -/
theorem parseAcceptsValidGroups : Obligations.ParseAcceptsValidGroups := by
  intro gs _ _ hv
  change parse gs.length (response gs) = _
  have hvalid : ∀ i < gs.length, groupBad (response gs) i = false := fun i hi =>
    groupBad_response_of_valid (List.getElem?_eq_getElem hi) (hv _ (List.getElem_mem hi))
  rw [parse, firstBadGroup_eq_none_of_valid hvalid]
  refine congrArg Result.ok (List.ext_getElem (by simp) fun i _ hi => ?_)
  rw [List.length_map] at hi
  simpa using wordAt_response (List.getElem?_eq_getElem hi)

/-- Settles O25: the group reported is the one at which the scan of the groups stops. -/
theorem parseReportsLowestInvalidGroup : Obligations.ParseReportsLowestInvalidGroup := by
  rintro gs k - hbefore ⟨g, hg, hbad⟩
  change parse gs.length (response gs) = _
  obtain ⟨hk, _⟩ := List.getElem?_eq_some_iff.mp hg
  have hvalid : ∀ j < k.val, groupBad (response gs) j = false := fun j hj =>
    have hget := List.getElem?_eq_getElem (hj.trans hk)
    groupBad_response_of_valid hget (hbefore j _ hj hget)
  rw [parse, firstBadGroup_eq_some hk (groupBad_response_of_invalid hg hbad) hvalid]

/-- Settles O26: by whether the scan of the groups finds an invalid one. -/
theorem parseGivesAllWordsOrOneFailure : Obligations.ParseGivesAllWordsOrOneFailure := by
  intro n buf _
  rw [parse]
  cases h : firstBadGroup n buf with
  | none => exact .inl ⟨_, rfl, by simp⟩
  | some k => exact .inr ⟨k, rfl, lt_of_firstBadGroup_eq_some h⟩

/-- Settles O27. -/
theorem parseInvertsGroups : Obligations.ParseInvertsGroups := fun ws _ => parse_flatMap_group ws

/-! ### The reads (R95 to R103) -/

theorem readResult_of_length {n : Nat} {buf : List Byte} (h : buf.length = groupBytes * n) :
    readResult n buf = parse n buf := if_pos h

theorem readResult_of_other_length {n : Nat} {buf : List Byte} (h : buf.length ≠ groupBytes * n) :
    readResult n buf = .failTransport := if_neg h

/-- A read as an equation per path: ignored while faulted, `NotOpen` while Closed, and while Open by the answer to the
one read of `3n` bytes and by the length of the buffer. -/
theorem readWords_paths (n : Nat) (s : State) :
    (s.fault ≠ .noFault → (.next (readWords n s) : Outcome) = .next s) ∧
    (s.fault = .noFault → s.sess = .closed →
      (.next (readWords n s) : Outcome) = .next { s with fault := .notOpen }) ∧
    (s.fault = .noFault → s.sess = .opened →
      (∀ buf, answerTo (.read (groupBytes * n)) s = .ok buf → buf.length = groupBytes * n →
        (.next (readWords n s) : Outcome) = .next { logCall (.read (groupBytes * n)) s with res := parse n buf }) ∧
      (∀ buf, answerTo (.read (groupBytes * n)) s = .ok buf → buf.length ≠ groupBytes * n →
        (.next (readWords n s) : Outcome) = .next { logCall (.read (groupBytes * n)) s with res := .failTransport }) ∧
      (∀ k, answerTo (.read (groupBytes * n)) s = .fail k →
        (.next (readWords n s) : Outcome) = .next { logCall (.read (groupBytes * n)) s with res := .failTransport }) ∧
      (∀ k, answerTo (.read (groupBytes * n)) s = .never k →
        (.next (readWords n s) : Outcome) =
          .next { logCall (.read (groupBytes * n)) s with waiting := some (.read (groupBytes * n)) })) := by
  refine ⟨fun hf => congrArg _ (unlessFaulted_of_faulted hf),
    fun hf hc => congrArg _ (unlessFaulted_whenOpen_of_closed hf hc), fun hf ho => ?_⟩
  rw [readWords, unlessFaulted_whenOpen_of_opened hf ho]
  exact ⟨fun buf ha hlen => congrArg _ ((busCall_of_ok ha).trans (congrArg (setRes · _) (readResult_of_length hlen))),
    fun buf ha hlen => congrArg _ ((busCall_of_ok ha).trans (congrArg (setRes · _) (readResult_of_other_length hlen))),
    fun _ ha => congrArg _ (busCall_of_fail ha), fun _ ha => congrArg _ (busCall_of_never ha)⟩

/-- Settles O32. -/
theorem read1ReadsOneWord : Obligations.Read1ReadsOneWord := readWords_paths 1

/-- Settles O33. -/
theorem read2ReadsTwoWords : Obligations.Read2ReadsTwoWords := readWords_paths 2

/-- Settles O34. -/
theorem read3ReadsThreeWords : Obligations.Read3ReadsThreeWords := readWords_paths 3

theorem exec_read {i : Instr} {n : Nat}
    (h : (i = .read1 ∧ n = 1) ∨ (i = .read2 ∧ n = 2) ∨ (i = .read3 ∧ n = 3)) (s : State) :
    exec i s = .next (readWords n s) := by
  rcases h with ⟨rfl, rfl⟩ | ⟨rfl, rfl⟩ | ⟨rfl, rfl⟩ <;> rfl

/-- Settles O35: each of the three is a read of its number of words, and of the answers to it nothing is said. -/
theorem readsMakeOneReadAndChangeResOnly : Obligations.ReadsMakeOneReadAndChangeResOnly := by
  intro i n s t hi h
  obtain rfl := Host.Outcome.next.inj ((exec_read hi s).symm.trans h)
  rcases readWords_cases n s with ⟨hf, e⟩ | ⟨hf, hc, e⟩ | ⟨hf, ho, ⟨_, _, e⟩ | ⟨_, _, e⟩ | ⟨_, _, e⟩⟩
  · exact .inl ⟨hf, e⟩
  · exact .inr (.inl ⟨hf, hc, e⟩)
  · exact .inr (.inr ⟨hf, ho, .inl (by rw [e]; rfl)⟩)
  · exact .inr (.inr ⟨hf, ho, .inl (by rw [e]; rfl)⟩)
  · exact .inr (.inr ⟨hf, ho, .inr e⟩)

/-! ### A corrupted response (R106 (b)) -/

/-- With all groups valid but the one put in at `k`, the parser reports `k`. -/
theorem parse_response_set_invalid {gs : List (Byte × Byte × Byte)} {k : Fin 3} {g : Byte × Byte × Byte}
    (h3 : gs.length ≤ 3) (hk : k.val < gs.length) (hv : ∀ x ∈ gs, groupValid x.1 x.2.1 x.2.2 = true)
    (hg : groupValid g.1 g.2.1 g.2.2 = false) :
    parse gs.length (response (gs.set k.val g)) = .failChecksum k := by
  have hbefore : ∀ (j : Nat) (x : Byte × Byte × Byte), j < k.val → (gs.set k.val g)[j]? = some x →
      crc8 [x.1, x.2.1] = x.2.2 := by
    intro j x hj hx
    rw [List.getElem?_set_ne hj.ne'] at hx
    exact groupValid_iff.mp (hv x (List.mem_of_getElem? hx))
  have hbad : crc8 [g.1, g.2.1] ≠ g.2.2 := mt groupValid_iff.mpr (Bool.eq_false_iff.mp hg)
  have hparse := parseReportsLowestInvalidGroup (gs.set k.val g) k (by rwa [List.length_set]) hbefore
    ⟨g, List.getElem?_set_self hk, hbad⟩
  rwa [List.length_set] at hparse

/-- Settles O37: the changed bits make group `k` invalid, and the response still has the length asked for, so `RES` is
the parser's judgement on it. -/
theorem corruptedResponseNeverAccepted : Obligations.CorruptedResponseNeverAccepted := by
  intro i gs k g e s rest hi hv hget h1 h3 hf ho ha
  obtain ⟨hk, _⟩ := List.getElem?_eq_some_iff.mp hget
  have hlen : gs.length ≤ 3 := by omega
  have hvalid : groupValid (g.extractLsb' 16 8) (g.extractLsb' 8 8) (g.extractLsb' 0 8) = true := by
    simpa only using hv _ (List.mem_of_getElem? hget)
  have hinvalid := upToThreeBitErrorsInGroupDetected g e hvalid h1 h3
  have hparse := parse_response_set_invalid (g := (_, _, _)) hlen hk hv hinvalid
  obtain ⟨_, _, hopened⟩ := readWords_paths gs.length s
  obtain ⟨hread, _⟩ := hopened hf ho
  have hnext := hread _ (answerTo_scripted _ ha) ((length_response _).trans (by rw [List.length_set]))
  exact ⟨_, (exec_read hi s).trans hnext, hparse, fun j => congrArg (wordReg · j) hparse⟩

end Sys2Proof.Machine
end

section
/-! PROOFS of the family 43_session.md: `OPEN` and `CLOSE` path by path (O3, O4), their frame (O49), and what moves the
session (O5). -/

namespace Sys2Proof.Machine

/-! ### The session under a command (R110, R114) -/

/-- A bus call that returned moves the session only for `OPEN`, on a success, and for `CLOSE`. -/
theorem sessionAfter_cases (i : Instr) (won : Bool) (old : Session) :
    sessionAfter i won old = old ∨
    (i = .openSession ∧ won = true ∧ sessionAfter i won old = .opened) ∨
    (i = .closeSession ∧ sessionAfter i won old = .closed) := by
  cases i with
  | openSession =>
    cases won with
    | true => exact .inr (.inl ⟨rfl, rfl, rfl⟩)
    | false => exact .inl rfl
  | closeSession => exact .inr (.inr ⟨rfl, rfl⟩)
  | _ => exact .inl rfl

/-- The session as a command that calls the bus leaves it: as it was, Open where that call was answered with success and
the command is `OPEN`, or Closed where it is `CLOSE`. -/
theorem AfterCall.sess_cases {i : Instr} {c : BusCall} {s t : State} (h : AfterCall i c s t) :
    t.sess = s.sess ∨
    (i = .openSession ∧ t.sess = .opened ∧ ∃ b, answerTo c s = .ok b) ∨
    (i = .closeSession ∧ t.sess = .closed) := by
  rcases h with ⟨n, _, rfl⟩ | ⟨buf, r, ha, _, rfl⟩ | ⟨n, _, rfl⟩
  · exact .inl rfl
  · rcases sessionAfter_cases i true s.sess with e | ⟨hi, _, e⟩ | ⟨hi, e⟩
    · exact .inl e
    · exact .inr (.inl ⟨hi, e, buf, ha⟩)
    · exact .inr (.inr ⟨hi, e⟩)
  · rcases sessionAfter_cases i false s.sess with e | ⟨_, hwon, _⟩ | ⟨hi, e⟩
    · exact .inl e
    · cases hwon
    · exact .inr (.inr ⟨hi, e⟩)

/-- A command keeps the session, or, on a block that is not faulted, it is an `OPEN` answered with success or a
`CLOSE`. -/
theorem exec_sess {i : Instr} {s t : State} (h : exec i s = .next t) :
    t.sess = s.sess ∨
    (s.fault = .noFault ∧ i = .openSession ∧ t.sess = .opened ∧ ∃ b, answerTo .openBus s = .ok b) ∨
    (s.fault = .noFault ∧ i = .closeSession ∧ t.sess = .closed) := by
  rcases exec_effect h with ⟨_, rfl⟩ | ⟨hf, ⟨_, a, rfl⟩ | ⟨f, _, rfl⟩ | ⟨_, _, rfl⟩ | ⟨c, hc, _, ha⟩⟩
  · exact .inl rfl
  · exact .inl (setAcc_sess a s)
  · exact .inl (raiseFault_sess f s)
  · exact .inl (setRes_sess (.ok []) s)
  · rcases ha.sess_cases with e | ⟨rfl, ht, hok⟩ | ⟨hi, ht⟩
    · exact .inl e
    · obtain rfl : BusCall.openBus = c := Option.some.inj hc
      exact .inr (.inl ⟨hf, rfl, ht, hok⟩)
    · exact .inr (.inr ⟨hf, hi, ht⟩)

/-- A step keeps the session, or it is the reset, an `OPEN` answered with success or a `CLOSE`. -/
theorem step_sess {s t : State} (h : step s = .next t) :
    t.sess = s.sess ∨
    (t.sess = .closed ∧ ∃ rest, s.inputs = .reset :: rest) ∨
    (t.sess = .opened ∧ ∃ v rest b, s.inputs = .write 0 v :: rest ∧ narrow v = 0x01 ∧ s.fault = .noFault ∧
      answerTo .openBus s = .ok b) ∨
    (t.sess = .closed ∧ ∃ v rest, s.inputs = .write 0 v :: rest ∧ narrow v = 0x02 ∧ s.fault = .noFault) := by
  rcases step_reset_or_command_or_keeps h with ⟨rest, hi, rfl⟩ | ⟨v, rest, i, hi, _, hv, hx⟩ | ⟨hk, _⟩
  · exact .inr (.inl ⟨rfl, rest, hi⟩)
  · rcases exec_sess hx with e | ⟨hf, rfl, ht, b, hok⟩ | ⟨hf, rfl, ht⟩
    · exact .inl e
    · exact .inr (.inr (.inl ⟨ht, v, rest, b, hi, hv, hf, hok⟩))
    · exact .inr (.inr (.inr ⟨ht, v, rest, hi, hv, hf⟩))
  · exact .inl hk.sess

/-- Settles O5: of the four things a step can do to the session, each direction leaves only its own. -/
theorem sessionMovesOnlyByOpenCloseReset : Obligations.SessionMovesOnlyByOpenCloseReset := by
  intro s t h
  rcases step_sess h with e | ⟨ht, hreset⟩ | ⟨ht, hopen⟩ | ⟨ht, hclose⟩
  · exact ⟨fun hs ht => by simp [e, hs] at ht, fun hs ht => by simp [e, hs] at ht⟩
  · exact ⟨fun _ ht' => by simp [ht] at ht', fun _ _ => .inl hreset⟩
  · exact ⟨fun _ _ => hopen, fun _ ht' => by simp [ht] at ht'⟩
  · exact ⟨fun _ ht' => by simp [ht] at ht', fun _ _ => .inr hclose⟩

/-! ### The frame of the two commands (R11, R111, R112) -/

/-- However the call of a command comes out, it has used up one answer. -/
theorem AfterCall.answers_eq {i : Instr} {c : BusCall} {s t : State} (h : AfterCall i c s t) :
    t.answers = s.answers.tail := by
  rcases h with ⟨n, _, rfl⟩ | ⟨buf, r, _, _, rfl⟩ | ⟨n, _, rfl⟩ <;> rfl

/-- A command makes no call and leaves the environment as it was, or it makes its own call and uses up one answer. -/
theorem exec_environment {i : Instr} {s t : State} (h : exec i s = .next t) :
    (t.events = s.events ∧ t.answers = s.answers ∧ t.draws = s.draws ∧ t.waiting = s.waiting) ∨
    (∃ c, callOf i s = some c ∧ t.events = s.events ++ [⟨c, answerTo c s⟩] ∧ t.answers = s.answers.tail) := by
  rcases exec_effect h with ⟨_, rfl⟩ | ⟨_, ⟨_, a, rfl⟩ | ⟨f, _, rfl⟩ | ⟨_, _, rfl⟩ | ⟨c, hc, _, ha⟩⟩
  · exact .inl ⟨rfl, rfl, rfl, rfl⟩
  · exact .inl ⟨rfl, rfl, rfl, rfl⟩
  · exact .inl ⟨rfl, rfl, rfl, rfl⟩
  · exact .inl ⟨rfl, rfl, rfl, rfl⟩
  · exact .inr ⟨c, hc, ha.events_eq, ha.answers_eq⟩

/-- Settles O49: both commands have a call of their own, and only a command with none writes `ACC`. -/
theorem sessionCommandsLeaveAccAndOperands : Obligations.SessionCommandsLeaveAccAndOperands := by
  intro i c s t hi h
  have hcall : callOf i s = some c := by rcases hi with ⟨rfl, rfl⟩ | ⟨rfl, rfl⟩ <;> rfl
  have hacc : t.acc = s.acc := (exec_acc h).resolve_right fun ⟨_, hnone⟩ => by simp [hcall] at hnone
  obtain ⟨hopc, hp1, hp2, hdin, hinputs, hreads⟩ := commandsLeaveOperandsAlone i s t h
  refine ⟨hacc, hopc, hp1, hp2, hdin, hinputs, hreads, (exec_environment h).imp_right ?_⟩
  rintro ⟨c', hc', hhistory⟩
  obtain rfl : c = c' := Option.some.inj (hcall.symm.trans hc')
  exact hhistory

/-! ### The two commands path by path (R111, R112) -/

theorem acquireBus_of_opened {s : State} (h : s.sess = .opened) : acquireBus s = raiseFault .alreadyOpen s := by
  simp [acquireBus, h]

theorem acquireBus_of_closed {s : State} (h : s.sess = .closed) :
    acquireBus s =
      busCall .openBus (fun _ u => setRes (.ok []) (setSess .opened u)) (setRes .failTransport) s := by
  simp [acquireBus, h]

theorem releaseBus_of_closed {s : State} (h : s.sess = .closed) : releaseBus s = setRes (.ok []) s := by
  simp [releaseBus, h]

theorem releaseBus_of_opened {s : State} (h : s.sess = .opened) :
    releaseBus s =
      busCall .closeBus (fun _ u => setRes (.ok []) (setSess .closed u))
        (fun u => setRes .failTransport (setSess .closed u)) s := by
  simp [releaseBus, h]

theorem exec_openSession_of_noFault {s : State} (h : s.fault = .noFault) :
    exec .openSession s = .next (acquireBus s) := congrArg _ (unlessFaulted_of_noFault h)

theorem exec_closeSession_of_noFault {s : State} (h : s.fault = .noFault) :
    exec .closeSession s = .next (releaseBus s) := congrArg _ (unlessFaulted_of_noFault h)

/-- Settles O3: while Closed the command is one bus call, followed answer by answer. -/
theorem openAcquiresBus : Obligations.OpenAcquiresBus := by
  refine fun s => ⟨fun hf => congrArg _ (unlessFaulted_of_faulted hf), fun hf ho => ?_, fun hf hc => ?_⟩
  · rw [exec_openSession_of_noFault hf, acquireBus_of_opened ho]; rfl
  · rw [exec_openSession_of_noFault hf, acquireBus_of_closed hc]
    exact ⟨fun _ ha => congrArg _ (busCall_of_ok ha), fun _ ha => congrArg _ (busCall_of_fail ha),
      fun _ ha => congrArg _ (busCall_of_never ha)⟩

/-- Settles O4: while Open the command is one bus call, followed answer by answer. -/
theorem closeReleasesBus : Obligations.CloseReleasesBus := by
  refine fun s => ⟨fun hf => congrArg _ (unlessFaulted_of_faulted hf), fun hf hc => ?_, fun hf ho => ?_⟩
  · rw [exec_closeSession_of_noFault hf, releaseBus_of_closed hc]; rfl
  · rw [exec_closeSession_of_noFault hf, releaseBus_of_opened ho]
    exact ⟨fun _ ha => congrArg _ (busCall_of_ok ha), fun _ ha => congrArg _ (busCall_of_fail ha),
      fun _ ha => congrArg _ (busCall_of_never ha)⟩

end Sys2Proof.Machine
end

section
/-! PROOFS of the family 60_exceptions.md: every step and command has a next state (O58), a faulted block ignores
commands (O43) and stays as it is until reset (O44), what raises each fault (O45, O46), and that raising one does
nothing else (O42). -/

namespace Sys2Proof.Machine

/-! ### A next state always (R140, R148, R155) -/

theorem exec_has_next (i : Instr) (s : State) : ∃ t, exec i s = .next t := by
  cases i <;> exact ⟨_, rfl⟩

theorem hostWrite_has_next (reg : Nat) (v : Word) (s : State) : ∃ t, hostWrite reg v s = .next t := by
  rcases hostWrite_cases reg v s with ⟨_, i, _, e⟩ | ⟨_, _, e⟩ | ⟨_, _, _, e⟩ | ⟨_, e⟩
  · rw [e]
    exact exec_has_next i s
  · exact ⟨_, e⟩
  · exact ⟨_, e⟩
  · exact ⟨_, e⟩

theorem step_has_next (s : State) : ∃ t, step s = .next t := by
  rcases step_cases s with ⟨_, e⟩ | ⟨_, _, e⟩ | ⟨_, _, _, e⟩ | ⟨reg, v, _, _, _, e⟩ | ⟨_, _, _, _, e⟩
  · exact ⟨_, e⟩
  · exact ⟨_, e⟩
  · exact ⟨_, e⟩
  · rw [e]
    exact hostWrite_has_next reg v (takeInput s)
  · exact ⟨_, e⟩

/-- Settles O58. -/
theorem stepAlwaysHasNextState : Obligations.StepAlwaysHasNextState := ⟨step_has_next, exec_has_next⟩

/-! ### Commands on a faulted block (R148) -/

theorem exec_of_faulted (i : Instr) {s : State} (hf : s.fault ≠ .noFault) : exec i s = .next s := by
  obtain ⟨t, ht⟩ := exec_has_next i s
  rcases exec_effect ht with ⟨_, rfl⟩ | ⟨hnone, _⟩
  · exact ht
  · exact absurd hnone hf

theorem issueCode_of_faulted (c : Byte) {s : State} (hf : s.fault ≠ .noFault) : issueCode c s = .next s := by
  rcases issueCode_cases c s with ⟨i, _, e⟩ | ⟨_, e⟩
  · rw [e, exec_of_faulted i hf]
  · rw [e, unlessFaulted_of_faulted hf]

/-- Settles O43. -/
theorem faultedBlockIgnoresCommands : Obligations.FaultedBlockIgnoresCommands :=
  fun _ hf => ⟨fun i => exec_of_faulted i hf, fun c => issueCode_of_faulted c hf⟩

/-! ### What raises each fault (R149 to R151) -/

theorem issueCode_of_ne_encodeCode {c : Byte} (s : State) (h : ∀ i, encodeCode i ≠ c) :
    issueCode c s = .next (unlessFaulted (raiseFault .illegalCommand) s) := by
  simp [issueCode, decodeCode_of_ne_encodeCode h]

theorem issueCode_raises_illegalCommand {c : Byte} {s : State} (h : ∀ i, encodeCode i ≠ c) (hf : s.fault = .noFault) :
    issueCode c s = .next { s with fault := .illegalCommand } := by
  rw [issueCode_of_ne_encodeCode s h, unlessFaulted_of_noFault hf, raiseFault]

/-- Settles O45: the host write issues its low byte on the state with the input taken. -/
theorem illegalCodeRaisesIllegalCommand : Obligations.IllegalCodeRaisesIllegalCommand := by
  refine ⟨fun _ _ h hf => issueCode_raises_illegalCommand h hf, fun v s rest hi hw h hf => ?_⟩
  rw [step_of_write hi hw, hostWrite_cmd]
  exact issueCode_raises_illegalCommand h hf

/-- The sends and the reads run behind both guards. -/
theorem exec_eq_unlessFaulted_whenOpen {i : Instr}
    (h : i = .send0 ∨ i = .send1 ∨ i = .send2 ∨ i = .read1 ∨ i = .read2 ∨ i = .read3) :
    ∃ body : State → State, ∀ s, exec i s = .next (unlessFaulted (whenOpen body) s) := by
  rcases h with rfl | rfl | rfl | rfl | rfl | rfl <;> exact ⟨_, fun _ => rfl⟩

/-- Settles O46: the session guard for the sends and reads, and the paths of `OPEN` and `CLOSE` that make no call. -/
theorem sessionPreconditionsRaiseFaults : Obligations.SessionPreconditionsRaiseFaults := by
  refine ⟨fun i s hi hf hc => ?_, fun s hf ho => ?_, fun s hf hc => ?_⟩
  · obtain ⟨body, e⟩ := exec_eq_unlessFaulted_whenOpen hi
    rw [e, unlessFaulted_whenOpen_of_closed hf hc, raiseFault]
  · rw [exec_openSession_of_noFault hf, acquireBus_of_opened ho, raiseFault]
  · rw [exec_closeSession_of_noFault hf, releaseBus_of_closed hc]
    exact ⟨_, rfl, hf⟩

/-! ### FAULT under a command and under a step (R18, R147, R148) -/

@[simp] theorem writeReg_fault (r : PortReg) (v : Word) (s : State) : (writeReg r v s).fault = s.fault := by
  cases r <;> rfl

@[simp] theorem hostRead_fault (reg : Nat) (s : State) : (hostRead reg s).fault = s.fault := by
  rcases hostRead_cases reg s with ⟨v, _, e⟩ | ⟨_, e⟩ <;> rw [e]

/-- From `s` to `t`, `FAULT` is kept, or a fault is raised where there was none and that is all. -/
def KeepsOrRaisesFault (s t : State) : Prop :=
  t.fault = s.fault ∨ (s.fault = .noFault ∧ ∃ f, t = raiseFault f s)

theorem unlessFaulted_raiseFault_keepsOrRaisesFault (f : FaultCode) (s : State) :
    KeepsOrRaisesFault s (unlessFaulted (raiseFault f) s) := by
  rcases unlessFaulted_cases (raiseFault f) s with ⟨hf, e⟩ | ⟨_, e⟩ <;> rw [e]
  · exact .inr ⟨hf, f, rfl⟩
  · exact .inl rfl

theorem exec_keepsOrRaisesFault {i : Instr} {s t : State} (h : exec i s = .next t) : KeepsOrRaisesFault s t := by
  rcases exec_effect h with ⟨_, rfl⟩ | ⟨hf, ⟨_, a, rfl⟩ | ⟨f, _, rfl⟩ | ⟨_, _, rfl⟩ | ⟨c, _, _, ha⟩⟩
  · exact .inl rfl
  · exact .inl (setAcc_fault a s)
  · exact .inr ⟨hf, f, rfl⟩
  · exact .inl (setRes_fault (.ok []) s)
  · obtain ⟨_, hfault, _⟩ := ha.keepsRest
    exact .inl hfault

theorem hostWrite_keepsOrRaisesFault {reg : Nat} {v : Word} {s t : State} (h : hostWrite reg v s = .next t) :
    KeepsOrRaisesFault s t := by
  rcases hostWrite_cases reg v s with ⟨_, i, _, e⟩ | ⟨_, _, e⟩ | ⟨r, _, _, e⟩ | ⟨_, e⟩ <;> rw [e] at h
  · exact exec_keepsOrRaisesFault h
  · cases h
    exact unlessFaulted_raiseFault_keepsOrRaisesFault _ s
  · cases h
    exact .inl (writeReg_fault r v s)
  · cases h
    exact .inl rfl

/-- A step keeps `FAULT`, or it is the reset and clears it, or it raises a fault where there was none, and beyond that
only takes its input. -/
theorem step_fault {s t : State} (h : step s = .next t) :
    t.fault = s.fault ∨ ((∃ rest, s.inputs = .reset :: rest) ∧ t.fault = .noFault) ∨
    (s.fault = .noFault ∧ ∃ f, t = raiseFault f (takeInput s)) := by
  rcases step_cases s with ⟨_, e⟩ | ⟨rest, hi, e⟩ | ⟨_, _, _, e⟩ | ⟨_, _, _, _, _, e⟩ | ⟨reg, _, _, _, e⟩ <;>
    rw [e] at h
  · cases h
    exact .inl rfl
  · cases h
    exact .inr (.inl ⟨⟨rest, hi⟩, rfl⟩)
  · cases h
    exact .inl rfl
  · rcases hostWrite_keepsOrRaisesFault h with hfault | hraise
    · exact .inl hfault
    · exact .inr (.inr hraise)
  · cases h
    exact .inl (hostRead_fault reg (takeInput s))

/-- Settles O42: of the three things a step can do to `FAULT` only the raising changes it to a fault. -/
theorem raisingFaultChangesNothingElse : Obligations.RaisingFaultChangesNothingElse := by
  intro s t h hne hfaulted
  rcases step_fault h with hkept | ⟨_, hcleared⟩ | ⟨hf, f, rfl⟩
  · exact absurd hkept hne
  · exact absurd hcleared hfaulted
  · exact ⟨hf, rfl⟩

/-- Settles O44: without the reset a faulted block keeps `FAULT`, and a command does no more there than an input that
runs none. -/
theorem faultStaysUntilReset : Obligations.FaultStaysUntilReset := by
  intro s t hf hr h
  have hfault : t.fault = s.fault := by
    rcases step_fault h with hkept | ⟨⟨rest, hi⟩, _⟩ | ⟨hnone, _⟩
    · exact hkept
    · exact absurd hi (hr rest)
    · exact absurd hnone hf
  have hk : KeepsResults s t := by
    rcases step_reset_or_command_or_keeps h with ⟨rest, hi, _⟩ | ⟨_, _, i, _, _, _, hx⟩ | ⟨hk, _⟩
    · exact absurd hi (hr rest)
    · obtain rfl := Host.Outcome.next.inj ((exec_of_faulted i (s := takeInput s) hf).symm.trans hx)
      exact .of_takeInput (.refl _)
    · exact hk
  exact ⟨hfault, hk.acc, hk.res, hk.sess, hk.events⟩

end Sys2Proof.Machine
end

section
/-! PROOFS of the family 70_reset_and_hazards.md: the step of the reset input and the step with no input (O2). -/

namespace Sys2Proof.Machine

/-- With no input from outside a step changes nothing (log 1). -/
theorem step_of_no_input {s : State} (hi : s.inputs = []) : step s = .next s := by
  simp [step, respond, hi]

/-- The reset is taken in every state, faulted or waiting too: the step does not look at `waiting` before it (R161). -/
theorem step_of_reset {s : State} {rest : List Input} (hi : s.inputs = .reset :: rest) :
    step s = .next (resetBlock { s with inputs := rest }) := by
  rw [← takeInput_of_inputs hi]
  simp [step, respond, hi]

/-- Settles O2: beyond taking the reset input the step only resets the block, and `resetBlock` keeps exactly the five
fields that are not the block's. -/
theorem resetInputResetsEveryState : Obligations.ResetInputResetsEveryState := by
  constructor
  · intro s rest hi
    exact step_of_reset hi
  · intro s hi
    exact step_of_no_input hi

end Sys2Proof.Machine
end
